-- ==== Sys2Proof/Word.lean ====
section
/-! DEFINITION. The word types of the block. All values are unsigned bit vectors (spec/00_scope.md R14). -/

namespace Sys2Proof

/-- One wire: 64 one-bit lanes (R12 `WORD_BITS`, R20). -/
abbrev Word := BitVec 64

/-- One byte of a file, a buffer, the opcode stream or a trace record. -/
abbrev Byte := BitVec 8

/-- A wire address as instructions and tables hold it (R12 `ADDR_BITS`, R68). -/
abbrev WireAddr := BitVec 16

/-- A header field (R23). -/
abbrev HeaderField := BitVec 32

end Sys2Proof
end

