-- ==== Sys2Proof/Config.lean ====
section
/-! DEFINITION. What an implementation fixes (R12) and the free values the spec leaves open.
Every open value is an opaque constant with no body: nothing in Lean can evaluate one, so a claim holds whatever it is. -/

namespace Sys2Proof.Config

/-- R12 `MAX_BATCH`: a batch b is legal when 1 ≤ b ≤ 64. -/
def maxBatch : Nat := 64

/-- R12 `ADDR_BITS` = 16: at most 65536 wires can be named. -/
def addressableWires : Nat := 65536

/-- R12, R63 `HEADER_BYTES`. -/
def headerBytes : Nat := 20

/-- R157, D8: the OPEN parameter `RANDOM_ENABLE_AT_RESET`. -/
opaque randomEnableAtReset : Bool

/-- R116, D13: the word a draw gives, for draw number `drawn` of draw sequence `sequence`.
FREE VALUE: the model admits every word for every draw (log entry 2). -/
opaque randomWord (sequence drawn : Nat) : Word

/-- R37, R83: the words `ram` happens to hold after Load, as cells in any order.
FREE VALUE, unobservable (log entry 3). -/
opaque staleRam (serial : Nat) : List (Nat × Word)

/-- R122, D17: the byte an output buffer's padding bits are taken from.
FREE VALUE for each Evaluate and each byte (log entry 4). -/
opaque paddingByte (serial k : Nat) : Byte

/-- R143, D17: a byte of the output buffer after an aborted Evaluate.
FREE VALUE for each Evaluate and each byte (log entry 4). -/
opaque abortedByte (serial k : Nat) : Byte

/-- R134, D26: how many bytes of a record a failed append left in the trace file.
FREE VALUE, any number; the record is cut to it (log entry 5). -/
opaque partialRecordLength (serial : Nat) : Nat

end Sys2Proof.Config
end

