-- ==== Sys2Proof/Syntax.lean ====
section
/-! DEFINITION. The instructions (spec/opcode_table.json, R58: the set is closed) and the parameter `TAG` (R13). -/

namespace Sys2Proof

/-- The instructions: destination first, then the sources (R68). Every operand names a wire. -/
inductive Instr where
  /-- `XOR d, s1, s2` (R108). -/
  | xor (d s1 s2 : WireAddr)
  /-- `AND d, s1, s2` (R109). -/
  | and (d s1 s2 : WireAddr)
  /-- `OR d, s1, s2` (R110). -/
  | or (d s1 s2 : WireAddr)
  /-- `NOT d, s1` (R111). -/
  | not (d s1 : WireAddr)
  /-- `RANDOM d` (R112). -/
  | random (d : WireAddr)
deriving DecidableEq, Repr

/-- The five operations, which `TAG` maps to tag bytes. -/
inductive Op where
  | xor | and | or | not | random
deriving DecidableEq, Repr

/-- The instruction formats (R64): binary, unary, and no source. -/
inductive Format where
  | b | u | z
deriving DecidableEq, Repr

/-- The OPEN parameter `TAG` (R13, R72, D2): the tag byte of each operation.
`TagMap.wf` (WellFormed.lean) says it is injective. -/
structure TagMap where
  xorTag : Byte
  andTag : Byte
  orTag : Byte
  notTag : Byte
  randomTag : Byte
deriving DecidableEq, Repr

end Sys2Proof
end

