-- ==== Sys2Proof/WellFormed.lean ====
section
/-! DEFINITION. The checks that make data meaningful: `TAG` is injective (R13), and an instruction names wires of the
circuit it stands in (R52). Every value of an address field is a legal encoding (R71), so nothing else of an
instruction can be ill-formed. -/

namespace Sys2Proof

/-- `TAG(op)`. -/
def TagMap.tag (T : TagMap) : Op → Byte
  | .xor => T.xorTag
  | .and => T.andTag
  | .or => T.orTag
  | .not => T.notTag
  | .random => T.randomTag

/-- The tag bytes in the order the source lists the operations. -/
def TagMap.tags (T : TagMap) : List Byte :=
  [T.xorTag, T.andTag, T.orTag, T.notTag, T.randomTag]

/-- R13: `TAG` is an injective map. -/
abbrev TagMap.wf (T : TagMap) : Prop := T.tags.Nodup

/-- The wire addresses an instruction names, in the order d, s1, s2 (R68, R100). -/
def Instr.operands : Instr → List WireAddr
  | .xor d s1 s2 => [d, s1, s2]
  | .and d s1 s2 => [d, s1, s2]
  | .or d s1 s2 => [d, s1, s2]
  | .not d s1 => [d, s1]
  | .random d => [d]

/-- The instruction names only wires of a circuit with `memory` wires (R52). -/
abbrev Instr.wf (memory : Nat) (i : Instr) : Prop := ∀ x ∈ i.operands, x.toNat < memory

end Sys2Proof
end

