-- ==== Sys2Proof/Decode.lean ====
section
/-! DEFINITION. The decoder, total on any bytes (R64 to R75), and after it the encoder, from the same tables. -/

namespace Sys2Proof

/-- The default `TAG` of R72. PRESUMED by the spec (from general knowledge, log entry 1); `TAG` is a parameter everywhere else. -/
def defaultTags : TagMap :=
  { xorTag := 0x00, andTag := 0x01, orTag := 0x02, notTag := 0x03, randomTag := 0x04 }

/-- R70: the format of each operation. -/
def Op.format : Op → Format
  | .xor => .b
  | .and => .b
  | .or => .b
  | .not => .u
  | .random => .z

/-- R65 to R67: the bytes of each format, tag included. -/
def Format.width : Format → Nat
  | .b => 7
  | .u => 5
  | .z => 3

/-- R70 `W(tag)`. -/
def Op.width (op : Op) : Nat := op.format.width

/-- The operation an instruction performs. -/
def Instr.op : Instr → Op
  | .xor _ _ _ => .xor
  | .and _ _ _ => .and
  | .or _ _ _ => .or
  | .not _ _ => .not
  | .random _ => .random

/-- The destination wire of an instruction. -/
def Instr.dest : Instr → WireAddr
  | .xor d _ _ => d
  | .and d _ _ => d
  | .or d _ _ => d
  | .not d _ => d
  | .random d => d

/-- The bytes an instruction takes in the stream (R70). -/
def Instr.width (i : Instr) : Nat := i.op.width

/-- R71: the operation whose tag is this byte, if any. -/
def TagMap.opOf (T : TagMap) (t : Byte) : Option Op :=
  if t = T.xorTag then some .xor
  else if t = T.andTag then some .and
  else if t = T.orTag then some .or
  else if t = T.notTag then some .not
  else if t = T.randomTag then some .random
  else none

/-- R43: the unsigned little-endian value of a byte string. -/
def littleEndian : List Byte → Nat
  | [] => 0
  | x :: xs => x.toNat + 256 * littleEndian xs

/-- The low `k` bytes of `v`, little-endian. -/
def littleEndianBytes : Nat → Nat → List Byte
  | 0, _ => []
  | k + 1, v => BitVec.ofNat 8 v :: littleEndianBytes k (v / 256)

/-- R65: an address field from its bytes, low byte first. -/
def addrOfBytes (lo hi : Byte) : WireAddr := hi ++ lo

/-- The byte of an address field at the lower offset. -/
def lowByte (a : WireAddr) : Byte := a.extractLsb' 0 8

/-- The byte of an address field at the higher offset. -/
def highByte (a : WireAddr) : Byte := a.extractLsb' 8 8

/-- What the decoder answers: an instruction and the bytes after it, or why there is none. -/
inductive DecodeResult where
  /-- The instruction, and the bytes after it. -/
  | ok (i : Instr) (rest : List Byte)
  /-- R97: the bytes end before the instruction does. -/
  | truncated
  /-- R98: the tag byte is not in `TAG`. -/
  | unknownTag (t : Byte)
deriving DecidableEq, Repr

/-- Format B (R65): the fields after the tag. -/
def decodeB (make : WireAddr → WireAddr → WireAddr → Instr) : List Byte → DecodeResult
  | d0 :: d1 :: a0 :: a1 :: b0 :: b1 :: rest =>
    .ok (make (addrOfBytes d0 d1) (addrOfBytes a0 a1) (addrOfBytes b0 b1)) rest
  | _ => .truncated

/-- Format U (R66). -/
def decodeU (make : WireAddr → WireAddr → Instr) : List Byte → DecodeResult
  | d0 :: d1 :: a0 :: a1 :: rest => .ok (make (addrOfBytes d0 d1) (addrOfBytes a0 a1)) rest
  | _ => .truncated

/-- Format Z (R67). -/
def decodeZ (make : WireAddr → Instr) : List Byte → DecodeResult
  | d0 :: d1 :: rest => .ok (make (addrOfBytes d0 d1)) rest
  | _ => .truncated

/-- The fields after the tag, in the operation's format (R99). -/
def decodeFields : Op → List Byte → DecodeResult
  | .xor => decodeB .xor
  | .and => decodeB .and
  | .or => decodeB .or
  | .not => decodeU .not
  | .random => decodeZ .random

/-- Decodes the instruction at the front of a byte string: the tag first (R141: an unknown tag is reported even when
bytes are missing after it), then the fields of its format. -/
def decode (T : TagMap) : List Byte → DecodeResult
  | [] => .truncated
  | t :: fields =>
    match T.opOf t with
    | none => .unknownTag t
    | some op => decodeFields op fields

/-- The bytes of an address field (R65). -/
def encodeAddr (a : WireAddr) : List Byte := [lowByte a, highByte a]

/-- The bytes of an instruction: the tag, then each address, low byte first (R64 to R67). -/
def encode (T : TagMap) (i : Instr) : List Byte :=
  T.tag i.op :: i.operands.flatMap encodeAddr

/-- The longest instruction, in bytes. -/
def longestInstruction : Nat := 7

/-- The bytes of a row of spec/opcode_table.json, whose bits are numbered as I in R64; bits from `nbits` up are 0. -/
def tableWordBytes (nbits w : Nat) : List Byte :=
  littleEndianBytes longestInstruction (w % 2 ^ nbits)

/-- The instruction the decoder reads, under the default `TAG`, from an opcode-table word. -/
def decodeTableWord (nbits w : Nat) : Option Instr :=
  match decode defaultTags (tableWordBytes nbits w) with
  | .ok i _ => some i
  | .truncated => none
  | .unknownTag _ => none

end Sys2Proof
end

