-- ==== Sys2Proof/Machine/State.lean ====
section
/-! DEFINITION. The machine's state as plain data: every piece of state of spec/10_state.md R39, each handle's circuit,
the host's requests and what it got back, and the counters the free values are applied to. -/

namespace Sys2Proof.Machine

/-- A wire memory: cells (address, word), addresses rising, no zero word listed (`Memory.wf`).
An unlisted address reads as 0, what R93 leaves there. -/
abbrev Memory := List (Nat × Word)

/-- R23: the header record, CircuitInfo. -/
structure Header where
  inputSize : HeaderField
  outputSize : HeaderField
  numOpcodes : HeaderField
  opcodesSize : HeaderField
  memory : HeaderField
deriving DecidableEq, Repr

/-- R20 to R26: the circuit state behind a handle. -/
structure Circuit where
  header : Header
  /-- R24. -/
  inputAddr : List WireAddr
  /-- R25. -/
  outputAddr : List WireAddr
  /-- R26: the instruction memory. -/
  opcodes : List Byte
  /-- R20: the Word-Parallel Memory. -/
  ram : Memory
deriving DecidableEq, Repr

/-- What a handle no Load has returned reads as: no wires, no instructions. No run reaches a read of it. -/
def Circuit.unloaded : Circuit :=
  { header := { inputSize := 0, outputSize := 0, numOpcodes := 0, opcodesSize := 0, memory := 0 }
    inputAddr := [], outputAddr := [], opcodes := [], ram := [] }

/-- R34: the random source, as the number of the draw sequence, the draws taken from it, and the draws its environment
has fixed in advance (the model's own field: none at reset, and a claim holds for every list). -/
structure RandomSource where
  sequence : Nat
  drawn : Nat
  supplied : List Word
deriving DecidableEq, Repr

/-- R136: the phase of the trace sink an IoError records. -/
inductive IoPhase where
  | opening
  /-- The append of instruction n. -/
  | append (n : Nat)
  | closing
deriving DecidableEq, Repr

/-- R95: the address table an error names. -/
inductive Table where
  | input | output
deriving DecidableEq, Repr

/-- R136: the errors of the block, each with the information it records. They end a transaction (R143); the machine
goes on, so none of them is a `Fault` of the step. -/
inductive TransactionError where
  | malformedHeader (length : Nat)
  | malformedTable (length : Nat)
  | malformedOpcodes (length : Nat)
  | outOfMemory
  | invalidBatch (b : Int)
  | ioError (phase : IoPhase)
  | unknownOpcode (n pc : Nat) (tag : Byte)
  | truncatedInstruction (n pc : Nat)
  /-- AddressOutOfRange for a table entry (R95). -/
  | tableAddressOutOfRange (table : Table) (index : Nat) (addr : WireAddr)
  /-- AddressOutOfRange for an instruction operand (R100). -/
  | operandAddressOutOfRange (n pc : Nat) (addr : WireAddr)
  | streamLengthMismatch (pc opcodesSize : Nat)
  | duplicateInputAddress (first second : Nat)
  | inputLengthMismatch (length : Nat)
deriving DecidableEq, Repr

/-- R36: the status of a transaction. -/
inductive Status where
  | ok
  | fault (e : TransactionError)
deriving DecidableEq, Repr

/-- R82, D16: which of Load's four allocations fail. The host decides, so each Load request carries its draws. -/
structure AllocDraws where
  inputAddrFails : Bool
  outputAddrFails : Bool
  opcodesFails : Bool
  ramFails : Bool
deriving DecidableEq, Repr

/-- R133, D15: which operations of the trace sink fail. The host decides, so each Evaluate request carries its draws.
The first append that fails ends the Evaluate, so one index covers every outcome of the appends. -/
structure SinkDraws where
  openFails : Bool
  /-- The instruction whose append fails, if one does. -/
  appendFailsAt : Option Nat
  closeFails : Bool
deriving DecidableEq, Repr

/-- R7 to R10: a transaction the host asks for. A handle is the number of successful Loads before its own. -/
inductive Request where
  | load (file : List Byte) (draws : AllocDraws)
  | evaluate (handle : Nat) (input : List Byte) (batch : Int) (traceAttached : Bool) (draws : SinkDraws)
  | setRandomEnable (flag : Bool)
  | reseed
deriving DecidableEq, Repr

/-- R7, R8, R11: what the host gets back from a transaction. An Evaluate gives the triple of R105; a trace is its
records and, after a failed append, the part of a record the file was left with (R134). -/
inductive Response where
  | loaded (handle : Nat)
  | loadFailed (e : TransactionError)
  | evaluated (status : Status) (out : List Byte) (trace : List (List Byte)) (partialRecord : List Byte)
  /-- SetRandomEnable and Reseed give nothing back. -/
  | done
deriving DecidableEq, Repr

/-- Whether an Evaluate is in flight (R6: at most one transaction at a time). -/
inductive Phase where
  | idle
  | evaluating
deriving DecidableEq, Repr

/-- Why a step can stop the machine. -/
inductive Fault where
  /-- Raised by `step` when an Evaluate is in flight on a handle that has no circuit. No run reaches such a state
  (`State.Inv` rules it out), and the spec gives it no effect (R158). Safe: the machine stops. -/
  | noCircuit
deriving DecidableEq, Repr

/-- Why a step gives a request or an instruction no meaning. -/
inductive Refusal where
  /-- An instruction that has no meaning in the model yet. Raised by no arm. Safe. -/
  | notModelled (mnemonic : String)
  /-- Raised by `step` when the host asks for an Evaluate on a handle no Load has returned: "no transaction but Load
  can name it" (R158), so the spec gives this no effect. Safe: the machine stops. -/
  | noSuchHandle (handle : Nat)
deriving DecidableEq, Repr

/-- The machine. Fields that R39 does not list are the model's own and say so. -/
structure State where
  /-- R13: the parameter `TAG`. No step writes it. -/
  tags : TagMap
  /-- R33. -/
  randomEnable : Bool
  /-- R34. -/
  randomSource : RandomSource
  /-- The circuits of the handles Load has returned (R20 to R26, R40), handle 0 first. -/
  circuits : List Circuit
  /-- Whether an Evaluate is in flight. -/
  phase : Phase
  /-- The handle of the current or last Evaluate. -/
  current : Nat
  /-- R27: the cursor. -/
  pc : Nat
  /-- R28: the instruction counter. -/
  n : Nat
  /-- R30: the batch register. -/
  b : Nat
  /-- R31. -/
  notMask : Word
  /-- R35. -/
  traceAttached : Bool
  /-- R131, R132: whether the trace sink is open. -/
  sinkOpen : Bool
  /-- R35: the records appended so far, each a byte string. -/
  trace : List (List Byte)
  /-- R134: the bytes a failed append left after the records. -/
  partialRecord : List Byte
  /-- The host's draws for the current Evaluate (R133; the model's own field). -/
  sink : SinkDraws
  /-- R41: the host's input buffer of the current Evaluate. -/
  input : List Byte
  /-- R41: the host's output buffer of the last Evaluate that ended. -/
  output : List Byte
  /-- R36: the status of the last transaction; `ok` while an Evaluate runs (R39). -/
  status : Status
  /-- The transactions the host has asked for, oldest first (the model's own field). -/
  requests : List Request
  /-- What the host got back so far, oldest first (the model's own field). -/
  responses : List Response
  /-- How many free values were taken (the model's own field). -/
  freeSerial : Nat
deriving DecidableEq, Repr

/-- The global reset (R156, R157): no handle, no transaction asked for, `random_enable` at its OPEN parameter.
Evaluation registers have no value before an Evaluate (R39); the zeros here are the model's (log entry 6). -/
def State.reset : State where
  tags := defaultTags
  randomEnable := Config.randomEnableAtReset
  randomSource := { sequence := 0, drawn := 0, supplied := [] }
  circuits := []
  phase := .idle
  current := 0
  pc := 0
  n := 0
  b := 0
  notMask := 0
  traceAttached := false
  sinkOpen := false
  trace := []
  partialRecord := []
  sink := { openFails := false, appendFailsAt := none, closeFails := false }
  input := []
  output := []
  status := .ok
  requests := []
  responses := []
  freeSerial := 0

end Sys2Proof.Machine
end

