-- ==== Sys2Proof/Machine/Flags.lean ====
section
/-! DEFINITION. The block has no flags and no condition codes (R32). What is computed from the batch in their place:
the slot-to-bit map, the not-mask and the trace width. -/

namespace Sys2Proof.Machine

/-- R117: the word bit that carries instance slot j. -/
def ioBit (j : Nat) : Nat := (j / 8) * 8 + (7 - j % 8)

/-- R31: the word with exactly the active bits of a batch of b set. -/
def notMaskOf (b : Nat) : Word :=
  (List.range b).foldl (fun w j => w ||| (1#64 <<< ioBit j)) 0

/-- R127: the bytes of a trace record. -/
def traceWidth (b : Nat) : Nat :=
  if b ≤ 8 then 1 else if b ≤ 16 then 2 else if b ≤ 32 then 4 else 8

/-- R12, R91: a legal batch. -/
abbrev legalBatch (b : Int) : Prop := 1 ≤ b ∧ b ≤ Config.maxBatch

/-- R16 `inB`, `outB`: the bytes that hold k bits. -/
def bytesForBits (k : Nat) : Nat := (k + 7) / 8

/-- R87: the class MalformedFile. -/
def TransactionError.isMalformedFile : TransactionError → Bool
  | .malformedHeader _ => true
  | .malformedTable _ => true
  | .malformedOpcodes _ => true
  | .outOfMemory => false
  | .invalidBatch _ => false
  | .ioError _ => false
  | .unknownOpcode _ _ _ => false
  | .truncatedInstruction _ _ => false
  | .tableAddressOutOfRange _ _ _ => false
  | .operandAddressOutOfRange _ _ _ => false
  | .streamLengthMismatch _ _ => false
  | .duplicateInputAddress _ _ => false
  | .inputLengthMismatch _ => false

/-- R136, D20: the numeric code of an error. -/
def TransactionError.code : TransactionError → Nat
  | .malformedHeader _ => 1
  | .malformedTable _ => 2
  | .malformedOpcodes _ => 3
  | .outOfMemory => 4
  | .invalidBatch _ => 5
  | .ioError _ => 6
  | .unknownOpcode _ _ _ => 7
  | .truncatedInstruction _ _ => 8
  | .tableAddressOutOfRange _ _ _ => 9
  | .operandAddressOutOfRange _ _ _ => 9
  | .streamLengthMismatch _ _ => 10
  | .duplicateInputAddress _ _ => 11
  | .inputLengthMismatch _ => 12

/-- R36, R136: the numeric code of a status. -/
def Status.code : Status → Nat
  | .ok => 0
  | .fault e => e.code

end Sys2Proof.Machine
end

