-- ==== Sys2Proof/Machine/Ops.lean ====
section
/-! DEFINITION. The shared operations over wires, the trace sink and the random source, and the abort of a transaction,
the block's only kind of exception. -/

namespace Sys2Proof.Machine

/-! ## Wire memory -/

/-- The word at an address; an unlisted one holds 0. -/
def Memory.read : Memory → Nat → Word
  | [], _ => 0
  | cell :: rest, a => if a = cell.1 then cell.2 else Memory.read rest a

/-- Drops what is listed at an address. -/
def Memory.erase (m : Memory) (a : Nat) : Memory := m.filter fun cell => cell.1 != a

/-- Lists a word before the first cell of a higher address. -/
def Memory.insert : Memory → Nat → Word → Memory
  | [], a, v => [(a, v)]
  | cell :: rest, a, v => if a < cell.1 then (a, v) :: cell :: rest else cell :: Memory.insert rest a v

/-- R50: a write replaces the whole word. It keeps the canonical form, so writing 0 unlists the address. -/
def Memory.write (m : Memory) (a : Nat) (v : Word) : Memory :=
  if v = 0 then m.erase a else (m.erase a).insert a v

/-- The canonical form: addresses strictly rising, and no cell that reads as an unlisted address does. -/
abbrev Memory.wf (m : Memory) : Prop :=
  m.Pairwise (fun c c' => c.1 < c'.1) ∧ ∀ c ∈ m, c.2 ≠ 0

/-- The wire memory that holds some cells, in any order, below `size`. -/
def Memory.ofCells (size : Nat) (cells : List (Nat × Word)) : Memory :=
  cells.foldl (fun m c => if c.1 < size then m.write c.1 c.2 else m) []

/-! ## The circuit of the current Evaluate -/

/-- The circuit behind the current handle. -/
def State.circuit (s : State) : Circuit := s.circuits.getD s.current Circuit.unloaded

/-- R20 `memory`: how many wires the current circuit has. -/
def State.memorySize (s : State) : Nat := s.circuit.header.memory.toNat

/-- R15 `ram[a]`. -/
def State.readWire (s : State) (a : Nat) : Word := s.circuit.ram.read a

/-- Replaces the wires of the current circuit; nothing else of a circuit ever changes (R23). -/
def State.setRam (s : State) (m : Memory) : State :=
  { s with circuits := s.circuits.set s.current { s.circuit with ram := m } }

/-- R15 `ram[a] <- v`. -/
def State.writeWire (s : State) (a : Nat) (v : Word) : State := s.setRam (s.circuit.ram.write a v)

/-! ## The random source (R34, R116) -/

/-- R15 `Draw64()`: the draw fixed in advance, if there is one, else a free word. -/
def RandomSource.draw (r : RandomSource) : Word :=
  match r.supplied with
  | w :: _ => w
  | [] => Config.randomWord r.sequence r.drawn

/-- The source after a draw: the next draw is another one. -/
def RandomSource.advance (r : RandomSource) : RandomSource :=
  { r with drawn := r.drawn + 1, supplied := r.supplied.tail }

/-- R10: the source after a Reseed, at the start of a fresh draw sequence. -/
def RandomSource.reseed (r : RandomSource) : RandomSource :=
  { sequence := r.sequence + 1, drawn := 0, supplied := [] }

/-- R112: the word RANDOM yields. -/
def State.randomResult (s : State) : Word := if s.randomEnable then s.randomSource.draw else 0

/-- R112, R50: RANDOM takes a draw when `random_enable` is true, and only then. -/
def State.consumeDraw (s : State) : State :=
  { s with randomSource := if s.randomEnable then s.randomSource.advance else s.randomSource }

/-! ## The end of a transaction -/

/-- R36, R143: the transaction ends with a status, the host gets its response, and the block is idle. -/
def State.endTransaction (s : State) (status : Status) (response : Response) : State :=
  { s with status := status, phase := .idle, responses := s.responses ++ [response] }

/-- The observation of an Evaluate that ends with this status and output (R105). -/
def State.observation (s : State) (status : Status) (out : List Byte) : Response :=
  .evaluated status out s.trace s.partialRecord

/-- R132: the sink is closed on every path out of an Evaluate. -/
def State.closeSink (s : State) : State := { s with sinkOpen := false }

/-- The output buffer takes these bytes, made with one free value. -/
def State.setOutput (s : State) (out : List Byte) : State :=
  { s with output := out, freeSerial := s.freeSerial + 1 }

/-- R8, R143, D17: the output buffer of an aborted Evaluate of `batch` instances: `batch*outB` bytes, each any value. -/
def State.unspecifiedOutput (s : State) (batch : Nat) : List Byte :=
  (List.range (batch * bytesForBits s.circuit.header.outputSize.toNat)).map (Config.abortedByte s.freeSerial)

/-- R143: an error aborts the Evaluate of `batch` instances. The status becomes the error, an open sink is closed with the
records it has, the output buffer is any value (D17), `ram` is left as it is, and control returns to the host. No state
is saved for a handler: there is none, and so no return from one (R145). A close that fails here adds no second error
(R146). -/
def State.abortBatch (s : State) (batch : Nat) (e : TransactionError) : State :=
  let out := s.unspecifiedOutput batch
  (s.closeSink.setOutput out).endTransaction (.fault e) (s.observation (.fault e) out)

/-- The abort of an Evaluate in flight, whose batch is in `b`. -/
def State.abort (s : State) (e : TransactionError) : State := s.abortBatch s.b e

/-! ## The trace sink and the end of an instruction -/

/-- R128: the record of a result word, its low `TW(b)` bytes, least significant first. -/
def traceRecord (b : Nat) (r : Word) : List Byte := littleEndianBytes (traceWidth b) r.toNat

/-- R133: whether the append of the current instruction's record fails. -/
def State.appendFails (s : State) : Bool :=
  s.traceAttached && s.sink.appendFailsAt == some s.n

/-- R128: appends a record when a sink is attached, and does nothing otherwise (R131). -/
def State.appendRecord (s : State) (r : Word) : State :=
  { s with trace := if s.traceAttached then s.trace ++ [traceRecord s.b r] else s.trace }

/-- R134, D26: what a failed append leaves of its record, any prefix of it. -/
def State.leavePartialRecord (s : State) (r : Word) : State :=
  { s with
    partialRecord := (traceRecord s.b r).take (Config.partialRecordLength s.freeSerial)
    freeSerial := s.freeSerial + 1 }

/-- R102: the cursor and the instruction counter advance. -/
def State.advance (s : State) (width : Nat) : State :=
  { s with pc := s.pc + width, n := s.n + 1 }

/-- R101, R102: writes the result word, appends its record, advances. A failed append aborts after the write, before
the advance. -/
def State.retire (s : State) (d : WireAddr) (r : Word) (width : Nat) : State :=
  let written := s.writeWire d.toNat r
  if s.appendFails then (written.leavePartialRecord r).abort (.ioError (.append s.n))
  else (written.appendRecord r).advance width

end Sys2Proof.Machine
end

