-- ==== Sys2Proof/Machine/Operands.lean ====
section
/-! DEFINITION. The one operand form of the block: a wire address, checked against `memory` before anything is read or
written (R100). -/

namespace Sys2Proof.Machine

/-- The first address of a list that names no wire (R52), with its index. -/
def firstOutOfRange (memory : Nat) : List WireAddr → Option (Nat × WireAddr)
  | [] => none
  | a :: rest =>
    if a.toNat < memory then (firstOutOfRange memory rest).map fun p => (p.1 + 1, p.2) else some (0, a)

/-- R100: checks the operands in the order given. The first that names no wire aborts with AddressOutOfRange;
otherwise the instruction runs and gives the state `run`. -/
def withOperands (operands : List WireAddr) (s : State) (run : State) : Host.Outcome State Fault Refusal :=
  match firstOutOfRange s.memorySize operands with
  | some bad => .next (s.abort (.operandAddressOutOfRange s.n s.pc bad.2))
  | none => .next run

end Sys2Proof.Machine
end

