-- ==== Sys2Proof/Machine/Gates.lean ====
section
/-! DEFINITION. The meaning of each instruction (spec/42_gates.md R108 to R112). Every source is read before the
destination is written (R56). -/

namespace Sys2Proof.Machine

/-- R108 XOR: bitwise exclusive-or of two wires. -/
def execXor (d s1 s2 : WireAddr) (s : State) : Host.Outcome State Fault Refusal :=
  withOperands [d, s1, s2] s (s.retire d (s.readWire s1.toNat ^^^ s.readWire s2.toNat) Op.xor.width)

/-- R109 AND: bitwise and of two wires. -/
def execAnd (d s1 s2 : WireAddr) (s : State) : Host.Outcome State Fault Refusal :=
  withOperands [d, s1, s2] s (s.retire d (s.readWire s1.toNat &&& s.readWire s2.toNat) Op.and.width)

/-- R110 OR: bitwise or of two wires. -/
def execOr (d s1 s2 : WireAddr) (s : State) : Host.Outcome State Fault Refusal :=
  withOperands [d, s1, s2] s (s.retire d (s.readWire s1.toNat ||| s.readWire s2.toNat) Op.or.width)

/-- R111 NOT: the complement of the active bits of a wire. -/
def execNot (d s1 : WireAddr) (s : State) : Host.Outcome State Fault Refusal :=
  withOperands [d, s1] s (s.retire d (s.notMask ^^^ s.readWire s1.toNat) Op.not.width)

/-- R112 RANDOM: a fresh draw, or the zero word in deterministic mode. -/
def execRandom (d : WireAddr) (s : State) : Host.Outcome State Fault Refusal :=
  withOperands [d] s (s.consumeDraw.retire d s.randomResult Op.random.width)

end Sys2Proof.Machine
end

