-- ==== Sys2Proof/Machine/Dispatch.lean ====
section
/-! DEFINITION. One arm for each instruction, each a call of its meaning. -/

namespace Sys2Proof.Machine

def exec (i : Instr) (s : State) : Host.Outcome State Fault Refusal :=
  match i with
  | .xor d s1 s2 => Sys2Proof.Machine.execXor d s1 s2 s
  | .and d s1 s2 => Sys2Proof.Machine.execAnd d s1 s2 s
  | .or d s1 s2 => Sys2Proof.Machine.execOr d s1 s2 s
  | .not d s1 => Sys2Proof.Machine.execNot d s1 s
  | .random d => Sys2Proof.Machine.execRandom d s

end Sys2Proof.Machine
end

