-- ==== Sys2Proof/Machine/Codec.lean ====
section
/-! DEFINITION. The I/O bit-packing codec (spec/43_codec.md). -/

namespace Sys2Proof.Machine

/-- R119: the word with bit k made v. -/
def setLane (w : Word) (k : Nat) (v : Bool) : Word :=
  (w &&& ~~~(1#64 <<< k)) ||| ((BitVec.ofBool v).setWidth 64 <<< k)

/-- R44: bit i of the buffer of bytes at `base`, packed MSB-first. -/
def bufferBit (buffer : List Byte) (base i : Nat) : Bool :=
  (buffer.getD (base + i / 8) 0).getLsbD (7 - i % 8)

/-- R119, the loop over the instances for one input bit: places bit i of each instance into its lane of a word. -/
def packWire (input : List Byte) (inB b i : Nat) (w : Word) : Word :=
  (List.range b).foldl (fun w j => setLane w (ioBit j) (bufferBit input (j * inB) i)) w

/-- R119, the loop over the input bits: `addrs` are the table entries from bit i on. -/
def packWires (input : List Byte) (inB b : Nat) : Nat → List WireAddr → Memory → Memory
  | _, [], m => m
  | i, a :: addrs, m =>
    packWires input inB b (i + 1) addrs (m.write a.toNat (packWire input inB b i (m.read a.toNat)))

/-- A byte from its bits, bit 0 the least significant. -/
def byteOfBits (f : Nat → Bool) : Byte :=
  (List.range 8).foldl (fun w p => w ||| ((BitVec.ofBool (f p)).setWidth 8 <<< p)) 0

/-- R121: output bit i of instance j, the instance's lane of the wire the table names. -/
def outputBit (c : Circuit) (i j : Nat) : Bool :=
  (c.ram.read (c.outputAddr.getD i 0).toNat).getLsbD (ioBit j)

/-- R121: byte k of the output buffer. It holds output bits 8q to 8q+7 of instance j, bit 8q in bit 7; what lies
beyond `output_size` is padding, taken from a free byte (R122). -/
def outputByte (c : Circuit) (serial k : Nat) : Byte :=
  let outB := bytesForBits c.header.outputSize.toNat
  let j := k / outB
  let q := k % outB
  byteOfBits fun p =>
    let i := 8 * q + (7 - p)
    if i < c.header.outputSize.toNat then outputBit c i j else (Config.paddingByte serial k).getLsbD p

/-- R121, R123: the output buffer of a batch of b, instance after instance. -/
def unpackOutputs (c : Circuit) (b serial : Nat) : List Byte :=
  (List.range (b * bytesForBits c.header.outputSize.toNat)).map (outputByte c serial)

end Sys2Proof.Machine
end

