-- ==== Sys2Proof/Machine/Evaluate.lean ====
section
/-! DEFINITION. The Evaluate transaction around the instructions (spec/41_dispatcher.md): the checks and the start, the
fetch and decode of one instruction, and the end of the run. -/

namespace Sys2Proof.Machine

/-! ## Checks (R91, R92, R95) -/

/-- The first two equal entries of a table whose entries so far are `seen`: the least second index, then the least
first index. -/
def firstDuplicate (seen : List WireAddr) : List WireAddr → Option (Nat × Nat)
  | [] => none
  | a :: rest =>
    match seen.findIdx? (· == a) with
    | some i => some (i, seen.length)
    | none => firstDuplicate (seen ++ [a]) rest

/-- R95: the error the check of the address tables ends with, if any: input table, output table, duplicates. -/
def tableError (c : Circuit) : Option TransactionError :=
  match firstOutOfRange c.header.memory.toNat c.inputAddr with
  | some p => some (.tableAddressOutOfRange .input p.1 p.2)
  | none =>
    match firstOutOfRange c.header.memory.toNat c.outputAddr with
    | some p => some (.tableAddressOutOfRange .output p.1 p.2)
    | none => (firstDuplicate [] c.inputAddr).map fun p => .duplicateInputAddress p.1 p.2

/-- R91, R92, R95 in the order of R140: the error the checks of an Evaluate end with, if any. -/
def evaluateError (c : Circuit) (input : List Byte) (batch : Int) : Option TransactionError :=
  if ¬ legalBatch batch then some (.invalidBatch batch)
  else if input.length ≠ batch.toNat * bytesForBits c.header.inputSize.toNat then
    some (.inputLengthMismatch input.length)
  else tableError c

/-! ## Start -/

/-- The Evaluate is accepted: its own state is empty and its status `ok` while it runs (R35, R39). -/
def State.accept (s : State) (handle : Nat) (input : List Byte) (draws : SinkDraws) : State :=
  { s with
    current := handle, status := .ok, trace := [], partialRecord := [], sink := draws, input := input }

/-- R93, R94: zeroes `ram`, initialises the evaluation registers, and opens the sink if one is attached. -/
def State.initialise (s : State) (b : Nat) (traceAttached : Bool) : State :=
  { s.setRam [] with
    phase := .evaluating, pc := 0, n := 0, b := b, notMask := notMaskOf b
    traceAttached := traceAttached, sinkOpen := traceAttached, trace := [] }

/-- R119: packs the input buffer into the wires. -/
def State.packInputs (s : State) : State :=
  s.setRam (packWires s.input (bytesForBits s.circuit.header.inputSize.toNat) s.b 0 s.circuit.inputAddr s.circuit.ram)

/-- R90 up to the first instruction: checks, opens the sink, zeroes `ram`, initialises, packs. An Evaluate turned away
here has not latched its batch (R30), so the length of its output is that of the argument (R8, log entry 4). -/
def State.startEvaluate (s : State) (handle : Nat) (input : List Byte) (batch : Int) (traceAttached : Bool)
    (draws : SinkDraws) : State :=
  let t := s.accept handle input draws
  match evaluateError t.circuit input batch with
  | some e => t.abortBatch batch.toNat e
  | none =>
    if traceAttached && draws.openFails then t.abortBatch batch.toNat (.ioError .opening)
    else (t.initialise batch.toNat traceAttached).packInputs

/-! ## Fetch and decode -/

/-- The bytes of the opcode stream from the cursor on, no further than `opcodes_size` (R97). -/
def State.fetchWindow (s : State) : List Byte :=
  (s.circuit.opcodes.take s.circuit.header.opcodesSize.toNat).drop s.pc

/-- R97 to R99: decodes the instruction at the cursor. -/
def State.fetch (s : State) : DecodeResult := decode s.tags s.fetchWindow

/-- R97, R98: the error a decode that gives no instruction aborts with. -/
def State.abortTruncated (s : State) : State := s.abort (.truncatedInstruction s.n s.pc)

/-- R98. -/
def State.abortUnknown (s : State) (t : Byte) : State := s.abort (.unknownOpcode s.n s.pc t)

/-- R96: whether an instruction is still to run. -/
def State.moreInstructions (s : State) : Bool := s.n < s.circuit.header.numOpcodes.toNat

/-! ## End (R103, R104, R132) -/

/-- R104: the Evaluate completes: the sink is closed and the outputs are the host's. -/
def State.complete (s : State) : State :=
  let out := unpackOutputs s.circuit s.b s.freeSerial
  (s.closeSink.setOutput out).endTransaction .ok (s.observation .ok out)

/-- R103, R104: after the last instruction, checks that the stream was used up, unpacks the outputs, closes the sink. -/
def State.finishEvaluate (s : State) : State :=
  if s.pc ≠ s.circuit.header.opcodesSize.toNat then
    s.abort (.streamLengthMismatch s.pc s.circuit.header.opcodesSize.toNat)
  else if s.traceAttached && s.sink.closeFails then s.abort (.ioError .closing)
  else s.complete

end Sys2Proof.Machine
end

