-- ==== Sys2Proof/Machine/Loader.lean ====
section
/-! DEFINITION. The Load transaction (spec/40_loader.md). -/

namespace Sys2Proof.Machine

/-- R15 `FileRead(off, n)`. -/
def fileRead (file : List Byte) (off n : Nat) : Nat := littleEndian ((file.drop off).take n)

/-- R62: the header field at a byte offset. -/
def headerField (file : List Byte) (off : Nat) : HeaderField := BitVec.ofNat 32 (fileRead file off 4)

/-- R62: the header record. -/
def parseHeader (file : List Byte) : Header where
  inputSize := headerField file 0
  outputSize := headerField file 4
  numOpcodes := headerField file 8
  opcodesSize := headerField file 12
  memory := headerField file 16

/-- R63: the address table of `size` entries at a byte offset. -/
def parseTable (file : List Byte) (off size : Nat) : List WireAddr :=
  (List.range size).map fun i => BitVec.ofNat 16 (fileRead file (off + 2 * i) 2)

/-- R63 `OFF_OUT`. -/
def Header.offOut (h : Header) : Nat := Config.headerBytes + 2 * h.inputSize.toNat

/-- R63 `OFF_OPS`. -/
def Header.offOps (h : Header) : Nat := h.offOut + 2 * h.outputSize.toNat

/-- R63 `END`. -/
def Header.fileEnd (h : Header) : Nat := h.offOps + h.opcodesSize.toNat

/-- R78: the circuit of a file whose length suffices. Its wires hold whatever the allocator left there (R83). -/
def parseCircuit (file : List Byte) (serial : Nat) : Circuit :=
  let h := parseHeader file
  { header := h
    inputAddr := parseTable file Config.headerBytes h.inputSize.toNat
    outputAddr := parseTable file h.offOut h.outputSize.toNat
    opcodes := (file.drop h.offOps).take h.opcodesSize.toNat
    ram := Memory.ofCells h.memory.toNat (Config.staleRam serial) }

/-- R78, R142: the error a Load ends with, if any: the first the steps reach. -/
def loadError (file : List Byte) (draws : AllocDraws) : Option TransactionError :=
  let L := file.length
  let h := parseHeader file
  if L < Config.headerBytes then some (.malformedHeader L)
  else if draws.inputAddrFails || draws.outputAddrFails then some .outOfMemory
  else if L < h.offOps then some (.malformedTable L)
  else if draws.opcodesFails then some .outOfMemory
  else if L < h.fileEnd then some (.malformedOpcodes L)
  else if draws.ramFails then some .outOfMemory
  else none

/-- R88: a circuit is added behind a new handle. -/
def State.addCircuit (s : State) (c : Circuit) : State :=
  { s with circuits := s.circuits ++ [c], freeSerial := s.freeSerial + 1 }

/-- R78: Load. A failed one keeps no state (R84); a successful one writes no global state (R88). -/
def State.load (s : State) (file : List Byte) (draws : AllocDraws) : State :=
  match loadError file draws with
  | some e => s.endTransaction (.fault e) (.loadFailed e)
  | none => (s.addCircuit (parseCircuit file s.freeSerial)).endTransaction .ok (.loaded s.circuits.length)

end Sys2Proof.Machine
end

