-- ==== Sys2Proof/Machine/Transactions.lean ====
section
/-! DEFINITION. The host's transactions (spec/00_scope.md R7 to R10): the oldest request is served when the block is
idle, so a transaction runs to its end before the next one begins (R6). -/

namespace Sys2Proof.Machine

/-- R9 SetRandomEnable. -/
def State.setRandomEnable (s : State) (flag : Bool) : State :=
  { s with randomEnable := flag }.endTransaction .ok .done

/-- R10 Reseed. -/
def State.reseed (s : State) : State :=
  { s with randomSource := s.randomSource.reseed }.endTransaction .ok .done

/-- The oldest request leaves the queue. -/
def State.popRequest (s : State) : State := { s with requests := s.requests.tail }

/-- Begins the oldest transaction asked for; without one the block waits. All but Evaluate end in the same step.
An Evaluate on a handle no Load has returned has no meaning (R158). -/
def State.serve (s : State) : Host.Outcome State Fault Refusal :=
  match s.requests with
  | [] => .next s
  | .load file draws :: _ => .next (s.popRequest.load file draws)
  | .setRandomEnable flag :: _ => .next (s.popRequest.setRandomEnable flag)
  | .reseed :: _ => .next s.popRequest.reseed
  | .evaluate handle input batch traceAttached draws :: _ =>
    if handle < s.circuits.length then
      .next (s.popRequest.startEvaluate handle input batch traceAttached draws)
    else .refused (.noSuchHandle handle)

/-! ## A program placed from outside -/

/-- A circuit with no tables that has every addressable wire. -/
def Circuit.bare : Circuit :=
  { Circuit.unloaded with
    header := { Circuit.unloaded.header with memory := BitVec.ofNat 32 Config.addressableWires } }

/-- A circuit with these bytes as its whole opcode stream, said to hold `count` instructions. -/
def Circuit.withOpcodes (c : Circuit) (bytes : List Byte) (count : Nat) : Circuit :=
  { c with
    opcodes := bytes
    header :=
      { c.header with numOpcodes := BitVec.ofNat 32 count, opcodesSize := BitVec.ofNat 32 bytes.length } }

/-- The current circuit takes these bytes as its stream, with the cursor at their start and one instruction to run. A
state without a current circuit gets a bare one behind a new handle; a state with no Evaluate in flight gets the
registers of an Evaluate at the full batch without a sink (log entry 7). -/
def State.placeProgram (s : State) (bytes : List Byte) : State :=
  let t : State :=
    if s.current < s.circuits.length then s
    else { s with circuits := s.circuits ++ [Circuit.bare], current := s.circuits.length }
  let t : State := { t with circuits := t.circuits.set t.current (t.circuit.withOpcodes bytes 1), pc := 0, n := 0 }
  match s.phase with
  | .evaluating => t
  | .idle =>
    { t with
      phase := .evaluating, b := Config.maxBatch, notMask := notMaskOf Config.maxBatch
      traceAttached := false, sinkOpen := false, trace := [], partialRecord := [], status := .ok }

end Sys2Proof.Machine
end

