-- ==== Sys2Proof/Machine/Step.lean ====
section
/-! DEFINITION. One step of the machine. Idle, it serves the host's oldest request; with an Evaluate in flight it runs
one instruction (R97 to R102) or, after the last, ends the run (R103, R104). -/

namespace Sys2Proof.Machine

/-- One instruction of the dispatch loop: fetch, decode, execute (R96 to R102). -/
def State.stepInstruction (s : State) : Host.Outcome State Fault Refusal :=
  match s.fetch with
  | .ok i _ => exec i s
  | .truncated => .next s.abortTruncated
  | .unknownTag t => .next (s.abortUnknown t)

/-- One step of the machine. -/
def step (s : State) : Host.Outcome State Fault Refusal :=
  match s.phase with
  | .idle => s.serve
  | .evaluating =>
    if s.current < s.circuits.length then
      if s.moreInstructions then s.stepInstruction else .next s.finishEvaluate
    else .fault .noCircuit

/-- The state whose very next step fetches and runs the instruction with these opcode-table bits. -/
def State.withFetchWord (s : State) (nbits w : Nat) : State := s.placeProgram (tableWordBytes nbits w)

end Sys2Proof.Machine
end

