-- ==== Sys2Proof/Safety.lean ====
section
/-! DEFINITION. What counts as a safe state and a safe run, and the vocabulary claims are stated in. -/

namespace Sys2Proof.Machine

/-- The next state of an outcome, if it is one. -/
def nextState? : Host.Outcome State Fault Refusal → Option State
  | .next s => some s
  | .fault _ => none
  | .refused _ => none

/-! ## Invariants -/

/-- A circuit as Load leaves it (R63, R78): its tables and its stream are as long as its header says, and its wires are
a canonical memory that lists wires of the circuit only. -/
abbrev Circuit.wf (c : Circuit) : Prop :=
  c.inputAddr.length = c.header.inputSize.toNat ∧ c.outputAddr.length = c.header.outputSize.toNat ∧
  c.opcodes.length = c.header.opcodesSize.toNat ∧
  c.ram.wf ∧ ∀ cell ∈ c.ram, cell.1 < c.header.memory.toNat

/-- The trace so far of an Evaluate in flight (R35, R127, R129): one record of `TW(b)` bytes for each completed
instruction when a sink is attached, and nothing otherwise. -/
abbrev State.traceInv (s : State) : Prop :=
  if s.traceAttached then s.trace.length = s.n ∧ ∀ r ∈ s.trace, r.length = traceWidth s.b else s.trace = []

/-- What the checks and the start of an Evaluate establish and its instructions keep. -/
abbrev State.evaluatingInv (s : State) : Prop :=
  s.current < s.circuits.length ∧
  1 ≤ s.b ∧ s.b ≤ Config.maxBatch ∧ s.notMask = notMaskOf s.b ∧
  s.n ≤ s.circuit.header.numOpcodes.toNat ∧ s.pc ≤ s.circuit.header.opcodesSize.toNat ∧
  (∀ a ∈ s.circuit.inputAddr, a.toNat < s.memorySize) ∧ (∀ a ∈ s.circuit.outputAddr, a.toNat < s.memorySize) ∧
  s.circuit.inputAddr.Nodup ∧
  s.input.length = s.b * bytesForBits s.circuit.header.inputSize.toNat ∧
  s.status = .ok ∧ s.partialRecord = [] ∧ s.sinkOpen = s.traceAttached ∧ s.traceInv

/-- The invariant of the machine: every step from a state that has it gives a state that has it. -/
abbrev State.Inv (s : State) : Prop :=
  s.tags.wf ∧ (∀ c ∈ s.circuits, c.wf) ∧
  match s.phase with
  | .idle => s.sinkOpen = false
  | .evaluating => s.evaluatingInv

/-- R115: every inactive bit of every wire of the current circuit is 0. -/
def State.inactiveLanesZero (s : State) : Prop :=
  ∀ a k : Nat, s.notMask.getLsbD k = false → (s.readWire a).getLsbD k = false

/-! ## Instructions -/

/-- When an instruction completes: it names wires of the circuit (R100) and its trace record, if any, is taken (R133). -/
abbrev State.Runs (s : State) (i : Instr) : Prop := i.wf s.memorySize ∧ s.appendFails = false

/-- What every instruction does whose result word is r and whose encoding has `width` bytes: wherever it runs it
completes, with r in its destination, every other wire as it was, and the cursor past it (R101, R102). -/
def GateContract (i : Instr) (s : State) (r : Word) (width : Nat) : Prop :=
  s.Runs i → ∃ t, exec i s = .next t ∧
    t.readWire i.dest.toNat = r ∧ (∀ a, a ≠ i.dest.toNat → t.readWire a = s.readWire a) ∧ t.pc = s.pc + width

/-! ## Transactions -/

/-- The block is idle and the oldest request is this one. -/
abbrev State.Asks (s : State) (r : Request) : Prop := s.phase = .idle ∧ s.requests.head? = some r

/-- The oldest request is an Evaluate on the handle of circuit c. -/
abbrev State.AsksEvaluate (s : State) (h : Nat) (c : Circuit) (input : List Byte) (batch : Int) (attached : Bool)
    (draws : SinkDraws) : Prop :=
  s.Asks (.evaluate h input batch attached draws) ∧ s.circuits[h]? = some c

/-- The tables of a circuit name wires of it, and no input wire twice (R95). -/
abbrev Circuit.tablesOk (c : Circuit) : Prop :=
  (∀ a ∈ c.inputAddr, a.toNat < c.header.memory.toNat) ∧ (∀ a ∈ c.outputAddr, a.toNat < c.header.memory.toNat) ∧
  c.inputAddr.Nodup

/-- An Evaluate whose checks pass (R91, R92, R95) and whose sink, if asked for, opens (R131). -/
abbrev Circuit.Accepts (c : Circuit) (input : List Byte) (batch : Int) (attached : Bool) (draws : SinkDraws) : Prop :=
  legalBatch batch ∧ input.length = batch.toNat * bytesForBits c.header.inputSize.toNat ∧ c.tablesOk ∧
  (attached && draws.openFails) = false

/-- An Evaluate is in flight on a circuit. -/
abbrev State.Evaluating (s : State) : Prop := s.phase = .evaluating ∧ s.current < s.circuits.length

/-- The step ends the Evaluate with this error (R143) before anything is written: the block is idle, the sink closed,
the wires as they were and the host told of the error, with these records and this partial record, and these requests
are left to serve. -/
def State.AbortsWith (s : State) (e : TransactionError) (trace : List (List Byte)) (partialRecord : List Byte)
    (requests : List Request) : Prop :=
  ∃ t, step s = .next t ∧ t.status = .fault e ∧ t.phase = .idle ∧ t.sinkOpen = false ∧ t.circuits = s.circuits ∧
    t.trace = trace ∧ t.partialRecord = partialRecord ∧ t.requests = requests ∧
    t.responses = s.responses ++ [.evaluated (.fault e) t.output trace partialRecord]

/-- An Evaluate turned away at its start: its request is served, and it leaves no record and no part of one (R134). -/
abbrev State.TurnsAway (s : State) (e : TransactionError) : Prop := s.AbortsWith e [] [] s.requests.tail

/-- An Evaluate in flight that aborts before a write: its records remain, and no partial record is added to what there
was, which the invariant says is nothing (R134). -/
abbrev State.AbortsInFlight (s : State) (e : TransactionError) : Prop :=
  s.AbortsWith e s.trace s.partialRecord s.requests

/-! ## Programs -/

/-- The instructions of a byte string read one after another: at most `count` of them, and none after bytes that are no
instruction (R96 to R98). -/
def decodeStream (T : TagMap) : Nat → List Byte → List Instr
  | 0, _ => []
  | count + 1, bytes =>
    match decode T bytes with
    | .ok i rest => i :: decodeStream T count rest
    | .truncated => []
    | .unknownTag _ => []

/-- R126: no instruction that an Evaluate of the circuit can run is a RANDOM. -/
abbrev Circuit.noRandom (T : TagMap) (c : Circuit) : Prop :=
  ∀ i ∈ decodeStream T c.header.numOpcodes.toNat (c.opcodes.take c.header.opcodesSize.toNat), i.op ≠ .random

end Sys2Proof.Machine
end

