-- ==== Sys2Proof/Certificates/Slice0/Obligations.lean ====
section
/-! DEFINITION. The statements for the provers. Each docstring names the rule it formalises. -/

open Sys2Proof Sys2Proof.Machine

/-! ## Encoding and decoding -/

/-- R77: the worked encodings, and one word of AND and OR (95_test_vectors.md P2), written out byte by byte under the
default `TAG`, which the spec takes from general knowledge (R72, log entry 1); its illegal tags are 0x05 to 0xFF (R73). -/
def Obligations.WrittenOutWordsDecode : Prop :=
  encode defaultTags (.xor 2 0 1) = [0x00, 0x02, 0x00, 0x00, 0x00, 0x01, 0x00] ∧
  encode defaultTags (.not 8 4) = [0x03, 0x08, 0x00, 0x04, 0x00] ∧
  encode defaultTags (.random 2) = [0x04, 0x02, 0x00] ∧
  decode defaultTags [0x00, 0x02, 0x00, 0x00, 0x00, 0x01, 0x00] = .ok (.xor 2 0 1) [] ∧
  decode defaultTags [0x01, 0x05, 0x00, 0x00, 0x00, 0x01, 0x00] = .ok (.and 5 0 1) [] ∧
  decode defaultTags [0x02, 0x07, 0x00, 0x05, 0x00, 0x06, 0x00] = .ok (.or 7 5 6) [] ∧
  decode defaultTags [0x03, 0x08, 0x00, 0x04, 0x00] = .ok (.not 8 4) [] ∧
  decode defaultTags [0x04, 0x02, 0x00] = .ok (.random 2) [] ∧
  ∀ t : Byte, t ∉ defaultTags.tags ↔ 5 ≤ t.toNat

/-- Decoding an encoded instruction gives it back with every operand, whatever follows it, for every injective `TAG`. -/
def Obligations.DecodeInvertsEncode : Prop :=
  ∀ (T : TagMap) (i : Instr) (rest : List Byte), T.wf → decode T (encode T i ++ rest) = .ok i rest

/-- R64, R75: only an instruction's own encoding decodes to it, so that one byte string stands for each instruction. -/
def Obligations.EncodeInvertsDecode : Prop :=
  ∀ (T : TagMap) (bytes : List Byte) (i : Instr) (rest : List Byte), T.wf →
    decode T bytes = .ok i rest → bytes = encode T i ++ rest

/-- R98: a tag byte outside `TAG` aborts the Evaluate with UnknownOpcode, even when no bytes follow it; the sink is
closed, no wire is written and no record appended. -/
def Obligations.UnknownTagsAbort : Prop :=
  ∀ (s : State) (t : Byte), s.Evaluating → s.circuit.wf → s.moreInstructions = true →
    s.circuit.opcodes[s.pc]? = some t → t ∉ s.tags.tags →
    s.AbortsInFlight (.unknownOpcode s.n s.pc t)

/-- R97: a read past `opcodes_size` is never made: the Evaluate aborts with TruncatedInstruction when the tag byte, or
after a known tag a field, would lie past the end. The error's name is the spec's own (its decision D28). -/
def Obligations.TruncatedInstructionsAbort : Prop :=
  ∀ s : State, s.Evaluating → s.tags.wf → s.circuit.wf → s.moreInstructions = true →
    (s.pc + 1 > s.circuit.header.opcodesSize.toNat → s.AbortsInFlight (.truncatedInstruction s.n s.pc)) ∧
    (∀ op : Op, s.circuit.opcodes[s.pc]? = some (s.tags.tag op) →
      s.pc + op.width > s.circuit.header.opcodesSize.toNat → s.AbortsInFlight (.truncatedInstruction s.n s.pc))

/-- A step runs the decoded instruction: with an Evaluate in flight and an instruction left, when the bytes at the
cursor decode, the step is the meaning of the instruction they decode to (R96 to R101). -/
def Obligations.StepRunsTheDecodedInstruction : Prop :=
  ∀ (s : State) (i : Instr) (rest : List Byte), s.Evaluating → s.n < s.circuit.header.numOpcodes.toNat →
    decode s.tags ((s.circuit.opcodes.take s.circuit.header.opcodesSize.toNat).drop s.pc) = .ok i rest →
    step s = exec i s

/-! ## The instructions -/

/-- R108. -/
def Obligations.XorMeaning : Prop :=
  (∀ (T : TagMap) (d0 d1 a0 a1 b0 b1 : Byte) (rest : List Byte), T.wf →
    decode T (T.xorTag :: d0 :: d1 :: a0 :: a1 :: b0 :: b1 :: rest) =
      .ok (.xor (addrOfBytes d0 d1) (addrOfBytes a0 a1) (addrOfBytes b0 b1)) rest) ∧
  ∀ (d s1 s2 : WireAddr) (s : State),
    GateContract (.xor d s1 s2) s (s.readWire s1.toNat ^^^ s.readWire s2.toNat) 7

/-- R109. -/
def Obligations.AndMeaning : Prop :=
  (∀ (T : TagMap) (d0 d1 a0 a1 b0 b1 : Byte) (rest : List Byte), T.wf →
    decode T (T.andTag :: d0 :: d1 :: a0 :: a1 :: b0 :: b1 :: rest) =
      .ok (.and (addrOfBytes d0 d1) (addrOfBytes a0 a1) (addrOfBytes b0 b1)) rest) ∧
  ∀ (d s1 s2 : WireAddr) (s : State),
    GateContract (.and d s1 s2) s (s.readWire s1.toNat &&& s.readWire s2.toNat) 7

/-- R110. -/
def Obligations.OrMeaning : Prop :=
  (∀ (T : TagMap) (d0 d1 a0 a1 b0 b1 : Byte) (rest : List Byte), T.wf →
    decode T (T.orTag :: d0 :: d1 :: a0 :: a1 :: b0 :: b1 :: rest) =
      .ok (.or (addrOfBytes d0 d1) (addrOfBytes a0 a1) (addrOfBytes b0 b1)) rest) ∧
  ∀ (d s1 s2 : WireAddr) (s : State),
    GateContract (.or d s1 s2) s (s.readWire s1.toNat ||| s.readWire s2.toNat) 7

/-- R111. What the mask is, and so which lanes are inverted, is NotInvertsExactlyTheActiveLanes. -/
def Obligations.NotMeaning : Prop :=
  (∀ (T : TagMap) (d0 d1 a0 a1 : Byte) (rest : List Byte), T.wf →
    decode T (T.notTag :: d0 :: d1 :: a0 :: a1 :: rest) = .ok (.not (addrOfBytes d0 d1) (addrOfBytes a0 a1)) rest) ∧
  ∀ (d s1 : WireAddr) (s : State), GateContract (.not d s1) s (s.notMask ^^^ s.readWire s1.toNat) 5

/-- R112, R116: the zero word when `random_enable` is false, with no draw taken; else a draw, and the source moves on by
one draw. The draw is the next of those fixed in advance, so that every word is some RANDOM's result, or else the free
word of its sequence and number; a second RANDOM takes the draw after it. That the draw is not masked to the batch is
the spec's decision D13; that a source is a list of draws and a free word for each number is the model's (log entry 2). -/
def Obligations.RandomMeaning : Prop :=
  (∀ (T : TagMap) (d0 d1 : Byte) (rest : List Byte), T.wf →
    decode T (T.randomTag :: d0 :: d1 :: rest) = .ok (.random (addrOfBytes d0 d1)) rest) ∧
  (∀ (d : WireAddr) (s : State), s.randomEnable = false →
    GateContract (.random d) s 0 3 ∧ ∀ t, exec (.random d) s = .next t → t.randomSource = s.randomSource) ∧
  (∀ (d : WireAddr) (s : State) (w : Word) (rest : List Word), s.randomEnable = true →
    s.randomSource.supplied = w :: rest →
    GateContract (.random d) s w 3 ∧
    ∀ t, d.toNat < s.memorySize → exec (.random d) s = .next t →
      t.randomSource =
        { sequence := s.randomSource.sequence, drawn := s.randomSource.drawn + 1, supplied := rest }) ∧
  (∀ (d : WireAddr) (s : State), s.randomEnable = true → s.randomSource.supplied = [] →
    GateContract (.random d) s (Config.randomWord s.randomSource.sequence s.randomSource.drawn) 3 ∧
    ∀ t, d.toNat < s.memorySize → exec (.random d) s = .next t →
      t.randomSource =
        { sequence := s.randomSource.sequence, drawn := s.randomSource.drawn + 1, supplied := [] }) ∧
  ∀ (d d' : WireAddr) (s t : State), s.randomEnable = true → s.Runs (.random d) → exec (.random d) s = .next t →
    (∀ w w' rest, s.randomSource.supplied = w :: w' :: rest → GateContract (.random d') t w' 3) ∧
    (s.randomSource.supplied = [] →
      GateContract (.random d') t (Config.randomWord s.randomSource.sequence (s.randomSource.drawn + 1)) 3)

/-- The frame of the five instructions. When one completes, only its destination wire, the cursor, the counter, the
trace (by the one record appended) and, for RANDOM with `random_enable` true, the random source change: every other wire
of the circuit, the circuit's header, tables and stream, every other circuit and every other field are as they were. -/
def Obligations.InstructionFrame : Prop :=
  ∀ (i : Instr) (s t : State), s.Runs i → exec i s = .next t →
    t = { s with
      circuits := t.circuits, randomSource := t.randomSource, pc := t.pc, n := t.n, trace := t.trace } ∧
    (t.randomSource ≠ s.randomSource → s.randomEnable = true ∧ ∃ d, i = .random d) ∧
    (∀ h, h ≠ s.current → t.circuits[h]? = s.circuits[h]?) ∧
    t.circuit = { s.circuit with ram := t.circuit.ram } ∧
    (∀ a, a ≠ i.dest.toNat → t.readWire a = s.readWire a) ∧
    ∃ records, t.trace = s.trace ++ records

/-- R100: operands are checked in the order d, s1, s2 before anything is read or written: the first that names no wire
aborts the Evaluate with AddressOutOfRange, and no wire, no record and no draw comes of the instruction. The error and
its order are the spec's decision D9. -/
def Obligations.OperandsAreCheckedInOrder : Prop :=
  ∀ (i : Instr) (s : State) (k : Nat) (x : WireAddr), i.operands[k]? = some x → s.memorySize ≤ x.toNat →
    (∀ (m : Nat) (y : WireAddr), m < k → i.operands[m]? = some y → y.toNat < s.memorySize) →
    ∃ t, exec i s = .next t ∧ t.status = .fault (.operandAddressOutOfRange s.n s.pc x) ∧ t.phase = .idle ∧
      t.circuits = s.circuits ∧ t.trace = s.trace ∧ t.randomSource = s.randomSource

/-- R111's corner cases: in an Evaluate, NOT complements exactly the lanes of the batch and keeps every other bit.
Which lanes those are rests on the spec's decision D6. -/
def Obligations.NotInvertsExactlyTheActiveLanes : Prop :=
  ∀ (d s1 : WireAddr) (s t : State), s.phase = .evaluating → s.Inv → s.Runs (.not d s1) →
    exec (.not d s1) s = .next t →
    ∀ k, k < 64 → (t.readWire d.toNat).getLsbD k =
      if ioBit k < s.b then !(s.readWire s1.toNat).getLsbD k else (s.readWire s1.toNat).getLsbD k

/-- R111's corner case: NOT applied twice gives the original word. -/
def Obligations.NotTwiceGivesTheOriginalWord : Prop :=
  ∀ (d s1 : WireAddr) (s t u : State), s.Runs (.not d s1) → exec (.not d s1) s = .next t →
    t.Runs (.not d d) → exec (.not d d) t = .next u → u.readWire d.toNat = s.readWire s1.toNat

/-- R114: lane k of what an instruction leaves depends on lane k of the wires only. Two states that differ only in wires,
and agree there on lane k, agree on lane k of every wire afterwards. For a RANDOM that draws this compares two draws from
equal sources, which the model makes equal (log entry 2): it says nothing of the hardware's two draws (R116). -/
def Obligations.LanesAreIndependent : Prop :=
  ∀ (i : Instr) (s t t' : State) (m : Memory) (k : Nat),
    (∀ a, (m.read a).getLsbD k = (s.readWire a).getLsbD k) →
    exec i s = .next t → exec i (s.setRam m) = .next t' →
    ∀ a, (t'.readWire a).getLsbD k = (t.readWire a).getLsbD k

/-! ## Batch, mask and trace -/

/-- R118. -/
def Obligations.SlotToBitMapIsAnInvolution : Prop :=
  (∀ j, j < 64 → ioBit j < 64 ∧ ioBit (ioBit j) = j ∧ ioBit j / 8 = j / 8) ∧
  (∀ j, j < 8 → ioBit j = 7 - j) ∧
  (∀ j k, j < 64 → k < 64 → ioBit j = ioBit k → j = k) ∧
  ∀ b j, b ≤ 64 → j < b → ioBit j < 8 * ((b + 7) / 8)

/-- R31: the not-mask has exactly the bits `io_bit(j)`, j < b, set (the spec's decision D6). -/
def Obligations.NotMaskIsTheActiveBits : Prop :=
  ∀ b k, 1 ≤ b → b ≤ 64 → ((notMaskOf b).getLsbD k = true ↔ ∃ j, j < b ∧ k = ioBit j)

/-- R127. -/
def Obligations.TraceWidthByBatch : Prop :=
  ∀ b, 1 ≤ b → b ≤ 64 →
    (b ≤ 8 → traceWidth b = 1) ∧ (9 ≤ b → b ≤ 16 → traceWidth b = 2) ∧ (17 ≤ b → b ≤ 32 → traceWidth b = 4) ∧
    (33 ≤ b → traceWidth b = 8)

/-- R128, R102: a record is the low `8*TW(b)` bits of the result word, least significant byte first (the spec's decision
D14), and holds every active lane; an instruction that completes appends the record of its result when a sink is
attached, and nothing otherwise. -/
def Obligations.TraceRecordIsTheLowBytes : Prop :=
  (∀ (b : Nat) (r : Word), 1 ≤ b → b ≤ 64 →
    (traceRecord b r).length = traceWidth b ∧
    (∀ k, k < traceWidth b → (traceRecord b r)[k]? = some (r.extractLsb' (8 * k) 8)) ∧
    ∀ j, j < b → ioBit j < 8 * traceWidth b) ∧
  ∀ (i : Instr) (s : State), s.Runs i → ∃ t, exec i s = .next t ∧
    t.trace = if s.traceAttached then s.trace ++ [traceRecord s.b (t.readWire i.dest.toNat)] else s.trace

/-- R134: when the append of an instruction's record fails, the Evaluate aborts with IoError. The instruction has written
its wire and taken its draw as one whose record is taken; the records before it remain, and after them may stand part of
its own: any prefix of it (the spec's decisions D15 and D26). For a RANDOM that draws, the comparison with an instruction
whose record is taken is of two draws from equal sources, which the model makes equal (log entry 2). -/
def Obligations.FailedAppendLeavesPartOfARecord : Prop :=
  ∀ (i : Instr) (s : State), i.wf s.memorySize → s.appendFails = true →
    ∃ t, exec i s = .next t ∧ t.status = .fault (.ioError (.append s.n)) ∧ t.phase = .idle ∧ t.sinkOpen = false ∧
      t.trace = s.trace ∧ t.partialRecord <+: traceRecord s.b (t.readWire i.dest.toNat) ∧
      ∀ u, exec i { s with sink := { s.sink with appendFailsAt := none } } = .next u →
        t.circuits = u.circuits ∧ t.randomSource = u.randomSource

/-- R129, R130: a completed Evaluate has appended exactly `num_opcodes` records when a sink is attached, each of `TW(b)`
bytes, and none otherwise, and its trace holds nothing else: no partial record. -/
def Obligations.CompletedTraceHasOneRecordPerInstruction : Prop :=
  ∀ s t : State, s.Inv → s.phase = .evaluating → step s = .next t → t.phase = .idle → t.status = .ok →
    t.partialRecord = [] ∧
    if s.traceAttached then
      t.trace.length = s.circuit.header.numOpcodes.toNat ∧ ∀ r ∈ t.trace, r.length = traceWidth s.b
    else t.trace = []

/-- R132: the sink is closed whenever an Evaluate ends; a close that fails on a completing Evaluate aborts it with
IoError; on an aborting one it changes nothing, and the first fault stands: the step gives the same state but for the
host's draw itself (the spec's decision D15; the draw is data of the request, log entry 9). -/
def Obligations.SinkIsClosedAtTheEnd : Prop :=
  (∀ s t : State, s.phase = .evaluating → step s = .next t → t.phase = .idle → t.sinkOpen = false) ∧
  (∀ s : State, s.Evaluating → s.moreInstructions = false → s.pc = s.circuit.header.opcodesSize.toNat →
    s.traceAttached = true → s.sink.closeFails = true → s.AbortsInFlight (.ioError .closing)) ∧
  ∀ (s t : State) (e : TransactionError) (fails : Bool), s.Evaluating → step s = .next t → t.phase = .idle →
    t.status = .fault e → e ≠ .ioError .closing →
    step { s with sink := { s.sink with closeFails := fails } } =
      .next { t with sink := { s.sink with closeFails := fails } }

/-! ## Starting an Evaluate -/

/-- R91: the batch check comes first, whatever else is wrong. -/
def Obligations.BatchIsCheckedFirst : Prop :=
  ∀ (s : State) (h : Nat) (c : Circuit) (input : List Byte) (b : Int) (attached : Bool) (draws : SinkDraws),
    s.AsksEvaluate h c input b attached draws → b < 1 ∨ 64 < b → s.TurnsAway (.invalidBatch b)

/-- R92 (the spec's decision D19). -/
def Obligations.InputLengthIsChecked : Prop :=
  ∀ (s : State) (h : Nat) (c : Circuit) (input : List Byte) (b : Int) (attached : Bool) (draws : SinkDraws),
    s.AsksEvaluate h c input b attached draws → 1 ≤ b → b ≤ 64 →
    input.length ≠ b.toNat * ((c.header.inputSize.toNat + 7) / 8) →
    s.TurnsAway (.inputLengthMismatch input.length)

/-- R95: the first bad entry of the input table, else of the output table, else the first pair of equal input
addresses, with the least second index and then the least first (the spec's decisions D10 and D12). -/
def Obligations.AddressTablesAreChecked : Prop :=
  ∀ (s : State) (h : Nat) (c : Circuit) (input : List Byte) (b : Int) (attached : Bool) (draws : SinkDraws),
    s.AsksEvaluate h c input b attached draws → 1 ≤ b → b ≤ 64 →
    input.length = b.toNat * ((c.header.inputSize.toNat + 7) / 8) →
    (∀ (i : Nat) (a : WireAddr), c.inputAddr[i]? = some a → c.header.memory.toNat ≤ a.toNat →
      (∀ (k : Nat) (x : WireAddr), k < i → c.inputAddr[k]? = some x → x.toNat < c.header.memory.toNat) →
      s.TurnsAway (.tableAddressOutOfRange .input i a)) ∧
    ((∀ x ∈ c.inputAddr, x.toNat < c.header.memory.toNat) →
      (∀ (i : Nat) (a : WireAddr), c.outputAddr[i]? = some a → c.header.memory.toNat ≤ a.toNat →
        (∀ (k : Nat) (x : WireAddr), k < i → c.outputAddr[k]? = some x → x.toNat < c.header.memory.toNat) →
        s.TurnsAway (.tableAddressOutOfRange .output i a)) ∧
      ((∀ x ∈ c.outputAddr, x.toNat < c.header.memory.toNat) →
        ∀ (i i' : Nat) (a : WireAddr), i < i' → c.inputAddr[i]? = some a → c.inputAddr[i']? = some a →
          (∀ (k k' : Nat) (x : WireAddr), k < k' → k' < i' → c.inputAddr[k]? = some x → c.inputAddr[k']? ≠ some x) →
          (∀ k, k < i → c.inputAddr[k]? ≠ some a) →
          s.TurnsAway (.duplicateInputAddress i i')))

/-- R131: a sink that does not open aborts an Evaluate whose checks pass with IoError, and no instruction runs. When the
sink is opened is the spec's decision D21. -/
def Obligations.SinkThatDoesNotOpenAborts : Prop :=
  ∀ (s : State) (h : Nat) (c : Circuit) (input : List Byte) (b : Int) (draws : SinkDraws),
    s.AsksEvaluate h c input b true draws → legalBatch b →
    input.length = b.toNat * bytesForBits c.header.inputSize.toNat → c.tablesOk → draws.openFails = true →
    s.TurnsAway (.ioError .opening)

/-- R94, R159, R93: an Evaluate whose checks pass starts, with its registers initialised: cursor 0, no instruction
counted, the mask of its batch, an empty trace, zero in every wire that is no input wire, and an open sink if one is
attached (R131; when it opens is the spec's decision D21). Its request is off the queue and not answered yet (the
model's queue, log entry 8), and every other field, global state and the earlier output buffer among them (log entry
14), and every other circuit are as they were; and `random_enable` holds for the whole Evaluate. -/
def Obligations.AcceptedEvaluateInitialises : Prop :=
  (∀ (s : State) (h : Nat) (c : Circuit) (input : List Byte) (b : Int) (attached : Bool) (draws : SinkDraws),
    s.AsksEvaluate h c input b attached draws → c.Accepts input b attached draws →
    ∃ t, step s = .next t ∧
      t = { s with
        circuits := t.circuits, phase := .evaluating, status := .ok, current := h, pc := 0, n := 0, b := b.toNat
        notMask := notMaskOf b.toNat, traceAttached := attached, sinkOpen := attached, trace := []
        partialRecord := [], sink := draws, input := input, requests := s.requests.tail } ∧
      t.circuits.length = s.circuits.length ∧ (∀ h', h' ≠ h → t.circuits[h']? = s.circuits[h']?) ∧
      t.circuit = { c with ram := t.circuit.ram } ∧
      ∀ a, (∀ x ∈ c.inputAddr, x.toNat ≠ a) → t.readWire a = 0) ∧
  ∀ s t : State, s.phase = .evaluating → step s = .next t → t.randomEnable = s.randomEnable

/-- R119: bit i of instance j, bit `7 - (i & 7)` of byte `j*inB + (i >> 3)`, is placed in lane `io_bit(j)` of wire
`input_addr[i]`; the inactive lanes of the input wires are 0. -/
def Obligations.InputPackingPlacesEveryBit : Prop :=
  ∀ (s t : State) (h : Nat) (c : Circuit) (input : List Byte) (b : Int) (attached : Bool) (draws : SinkDraws),
    s.AsksEvaluate h c input b attached draws → c.Accepts input b attached draws → step s = .next t →
    ∀ (i : Nat) (a : WireAddr), c.inputAddr[i]? = some a →
      (∀ (j : Nat) (x : Byte), j < b.toNat → input[j * ((c.header.inputSize.toNat + 7) / 8) + i / 8]? = some x →
        (t.readWire a.toNat).getLsbD (ioBit j) = x.getLsbD (7 - i % 8)) ∧
      ∀ k, b.toNat ≤ ioBit k → (t.readWire a.toNat).getLsbD k = false

/-- R120: the padding bits of the input have no effect (the spec's decision D18). Two requests whose inputs agree on the
`input_size` bits of each instance start the same Evaluate, but for the input buffer itself; and no step of an Evaluate
in flight reads that buffer. -/
def Obligations.InputPaddingIsIgnored : Prop :=
  (∀ (s t : State) (h : Nat) (c : Circuit) (input input' : List Byte) (b : Int) (attached : Bool) (draws : SinkDraws),
    c.wf → s.AsksEvaluate h c input b attached draws → c.Accepts input b attached draws →
    c.Accepts input' b attached draws →
    (∀ i j, i < c.header.inputSize.toNat → j < b.toNat →
      bufferBit input (j * bytesForBits c.header.inputSize.toNat) i =
        bufferBit input' (j * bytesForBits c.header.inputSize.toNat) i) →
    step s = .next t →
    step { s with requests := .evaluate h input' b attached draws :: s.requests.tail } =
      .next { t with input := input' }) ∧
  ∀ (s t : State) (input : List Byte), s.phase = .evaluating → step s = .next t →
    step { s with input := input } = .next { t with input := input }

/-! ## Ending an Evaluate -/

/-- R103: bytes left over after `num_opcodes` instructions abort the Evaluate (the spec's decision D7). -/
def Obligations.StreamEndIsChecked : Prop :=
  ∀ s : State, s.Evaluating → s.n = s.circuit.header.numOpcodes.toNat → s.pc ≠ s.circuit.header.opcodesSize.toNat →
    s.AbortsInFlight (.streamLengthMismatch s.pc s.circuit.header.opcodesSize.toNat)

/-- R121, R104, R123: a run whose stream was used up completes, with bit `7 - (i & 7)` of output byte
`j*outB + (i >> 3)` made lane `io_bit(j)` of wire `output_addr[i]`; the wires keep their values. The trace is the
records: no partial record is added to what there was, which the invariant says is nothing (R130). -/
def Obligations.CompletedEvaluateGivesItsOutputBits : Prop :=
  ∀ s : State, s.Evaluating → s.n = s.circuit.header.numOpcodes.toNat → s.pc = s.circuit.header.opcodesSize.toNat →
    (s.traceAttached && s.sink.closeFails) = false →
    ∃ t, step s = .next t ∧ t.status = .ok ∧ t.phase = .idle ∧ t.sinkOpen = false ∧ t.circuits = s.circuits ∧
      t.trace = s.trace ∧ t.partialRecord = s.partialRecord ∧ (s.Inv → t.partialRecord = []) ∧
      t.responses = s.responses ++ [.evaluated .ok t.output t.trace t.partialRecord] ∧
      t.output.length = s.b * ((s.circuit.header.outputSize.toNat + 7) / 8) ∧
      ∀ (i j : Nat) (a : WireAddr), i < s.circuit.header.outputSize.toNat → j < s.b →
        s.circuit.outputAddr[i]? = some a →
        ∃ x, t.output[j * ((s.circuit.header.outputSize.toNat + 7) / 8) + i / 8]? = some x ∧
          x.getLsbD (7 - i % 8) = (s.readWire a.toNat).getLsbD (ioBit j)

/-- R143, R8: an abort sets the status, makes the block idle, closes the sink, gives the output buffer `b*outB` bytes of
any value and tells the host; nothing else changes but the model's counter of free values, which moves by one (log
entry 4). -/
def Obligations.AbortChangesNothingElse : Prop :=
  ∀ (s : State) (e : TransactionError),
    s.abort e = { s with
      status := .fault e, phase := .idle, sinkOpen := false, output := (s.abort e).output
      responses := s.responses ++ [.evaluated (.fault e) (s.abort e).output s.trace s.partialRecord]
      freeSerial := s.freeSerial + 1 } ∧
    (s.abort e).output.length = s.b * ((s.circuit.header.outputSize.toNat + 7) / 8)

/-- R144: aborts are precise. A step of an Evaluate that ends in a fault has written nothing and appended no record,
except that a failed append comes after its instruction's write, to the one wire the instruction names. -/
def Obligations.AbortsArePrecise : Prop :=
  ∀ (s t : State) (e : TransactionError), s.Evaluating → s.status = .ok → step s = .next t → t.status = .fault e →
    t.trace = s.trace ∧ t.n = s.n ∧ t.pc = s.pc ∧
    (t.circuits = s.circuits ∨
      e = .ioError (.append s.n) ∧ ∃ i rest, s.fetch = .ok i rest ∧
        ∀ a, a ≠ i.dest.toNat → t.readWire a = s.readWire a)

/-! ## The host's other transactions -/

/-- R9. -/
def Obligations.SetRandomEnableWritesTheFlag : Prop :=
  ∀ (s : State) (flag : Bool), s.Asks (.setRandomEnable flag) →
    ∃ t, step s = .next t ∧
      t = { s with
        randomEnable := flag, status := .ok, requests := s.requests.tail, responses := s.responses ++ [.done] }

/-- R10: Reseed starts a fresh draw sequence and changes nothing else of the block. That draws fixed in advance are
dropped is the model's choice (log entry 2). -/
def Obligations.ReseedStartsAFreshSequence : Prop :=
  ∀ s : State, s.Asks .reseed →
    ∃ t, step s = .next t ∧ t.randomSource.sequence = s.randomSource.sequence + 1 ∧ t.randomSource.drawn = 0 ∧
      t.randomSource.supplied = [] ∧
      t = { s with
        randomSource := t.randomSource, status := .ok, requests := s.requests.tail
        responses := s.responses ++ [.done] }

/-- R142, R79 to R82: the error a Load reports is the first its steps reach, and a failed Load keeps no state (R84). That
an allocation fails by a draw is the spec's decision D16, and that the draws are data of the request the model's (log
entry 9). -/
def Obligations.LoadReportsItsFirstError : Prop :=
  ∀ (s : State) (file : List Byte) (draws : AllocDraws), s.Asks (.load file draws) →
    ∃ t, step s = .next t ∧ t.requests = s.requests.tail ∧
      (∀ e, t.status = .fault e → t.circuits = s.circuits ∧ t.responses = s.responses ++ [.loadFailed e]) ∧
      t.status =
        if file.length < 20 then .fault (.malformedHeader file.length)
        else if draws.inputAddrFails ∨ draws.outputAddrFails then .fault .outOfMemory
        else if file.length < 20 + 2 * fileRead file 0 4 + 2 * fileRead file 4 4 then
          .fault (.malformedTable file.length)
        else if draws.opcodesFails then .fault .outOfMemory
        else if file.length < 20 + 2 * fileRead file 0 4 + 2 * fileRead file 4 4 + fileRead file 12 4 then
          .fault (.malformedOpcodes file.length)
        else if draws.ramFails then .fault .outOfMemory
        else .ok

/-- R62, R63, R88: a successful Load returns a new handle whose circuit holds the header, tables and stream of the file
at their offsets. -/
def Obligations.LoadedCircuitIsTheFile : Prop :=
  ∀ (s t : State) (file : List Byte) (draws : AllocDraws), s.Asks (.load file draws) → step s = .next t →
    t.status = .ok →
    ∃ c, t.circuits = s.circuits ++ [c] ∧ t.responses = s.responses ++ [.loaded s.circuits.length] ∧
      c.header.inputSize.toNat = fileRead file 0 4 ∧ c.header.outputSize.toNat = fileRead file 4 4 ∧
      c.header.numOpcodes.toNat = fileRead file 8 4 ∧ c.header.opcodesSize.toNat = fileRead file 12 4 ∧
      c.header.memory.toNat = fileRead file 16 4 ∧
      c.inputAddr.map BitVec.toNat = (List.range (fileRead file 0 4)).map (fun i => fileRead file (20 + 2 * i) 2) ∧
      c.outputAddr.map BitVec.toNat =
        (List.range (fileRead file 4 4)).map (fun i => fileRead file (20 + 2 * fileRead file 0 4 + 2 * i) 2) ∧
      c.opcodes.length = fileRead file 12 4 ∧
      ∀ k, k < fileRead file 12 4 →
        c.opcodes[k]? = file[20 + 2 * fileRead file 0 4 + 2 * fileRead file 4 4 + k]?

/-- R88, R84, R40: a Load, failed or not, leaves global state, evaluation state and every handle there was as they were:
it writes the status, serves its request, answers it, and may add a handle (and take a free value, log entry 3). -/
def Obligations.LoadLeavesOtherStateAlone : Prop :=
  ∀ (s t : State) (file : List Byte) (draws : AllocDraws), s.Asks (.load file draws) → step s = .next t →
    t = { s with
      circuits := t.circuits, status := t.status, requests := s.requests.tail, responses := t.responses
      freeSerial := t.freeSerial } ∧
    ∀ h, h < s.circuits.length → t.circuits[h]? = s.circuits[h]?

/-- R85: bytes after the end of the opcode section are ignored: the longer file loads to the same circuit (the spec's
decision D22). That the two circuits' unspecified wires agree too is the model's (log entry 3; R37 lets no claim depend
on them). -/
def Obligations.BytesAfterTheEndAreIgnored : Prop :=
  ∀ (s t : State) (file extra : List Byte) (draws : AllocDraws) (rest : List Request), s.phase = .idle →
    s.requests = .load file draws :: rest → step s = .next t → t.status = .ok →
    step { s with requests := .load (file ++ extra) draws :: rest } = .next t

/-- R158: "no transaction but Load can name" a handle before Load, so the model refuses an Evaluate on a handle no Load
has returned, by name (the model's choice, log entry 10). -/
def Obligations.UnknownHandleIsRefused : Prop :=
  ∀ (s : State) (h : Nat) (input : List Byte) (b : Int) (attached : Bool) (draws : SinkDraws),
    s.Asks (.evaluate h input b attached draws) → s.circuits.length ≤ h → step s = .refused (.noSuchHandle h)

/-! ## The whole machine -/

/-- The reset value of the one global flag (R157). -/
def Obligations.ResetTakesTheOpenParameter : Prop :=
  State.reset.randomEnable = Config.randomEnableAtReset

/-- The invariant holds after reset. -/
def Obligations.ResetHasTheInvariant : Prop := State.reset.Inv

/-- Every step from a state with the invariant gives a state with it: `TAG` stays injective, every circuit stays as long
as its header says and its memory canonical, and an Evaluate in flight keeps its batch legal, its mask that of the batch,
its cursor and counter in range and one record per completed instruction (R27, R28, R30, R31, R35). -/
def Obligations.StepKeepsTheInvariant : Prop :=
  ∀ s t : State, s.Inv → step s = .next t → t.Inv

/-- From a state with the invariant the machine does not stop: a step answers a next state, unless the host asks for an
Evaluate on a handle no Load has returned, which the model refuses (its choice, log entry 10). -/
def Obligations.OnlyAnUnknownHandleStopsTheMachine : Prop :=
  ∀ s : State, s.Inv →
    (∃ t, step s = .next t) ∨
    ∃ h input b attached draws, s.Asks (.evaluate h input b attached draws) ∧ s.circuits.length ≤ h ∧
      step s = .refused (.noSuchHandle h)

/-- R107, R8: every Evaluate on a loaded circuit ends, with a response whose output has `b*outB` bytes, whether it completes
or aborts, after at most its start, `num_opcodes` instructions and its end. That these are `num_opcodes + 2` steps is
the model's choice (log entry 8), and so is the length for a batch below 0, none (log entry 4). -/
def Obligations.EveryEvaluateTerminates : Prop :=
  ∀ (s : State) (h : Nat) (c : Circuit) (input : List Byte) (b : Int) (attached : Bool) (draws : SinkDraws),
    s.AsksEvaluate h c input b attached draws →
    ∃ k t, k ≤ c.header.numOpcodes.toNat + 2 ∧ Sys2Proof.core.run k s = .next t ∧ t.phase = .idle ∧
      t.output.length = b.toNat * ((c.header.outputSize.toNat + 7) / 8) ∧
      t.responses = s.responses ++ [.evaluated t.status t.output t.trace t.partialRecord]

/-- R6: an Evaluate is atomic. While it is in flight no other request is begun, and the host gets nothing back until the
step that ends it gives the one response. -/
def Obligations.EvaluateIsAtomic : Prop :=
  ∀ s t : State, s.phase = .evaluating → step s = .next t →
    t.requests = s.requests ∧
    (t.phase = .evaluating ∧ t.responses = s.responses ∨
      t.phase = .idle ∧
        t.responses = s.responses ++ [.evaluated t.status t.output t.trace t.partialRecord])

/-- R106, R29: the cursor only advances, by the width of the instruction run, 7, 5 or 3 bytes, and the counter by one; a
step that ends the Evaluate moves neither. -/
def Obligations.CursorOnlyAdvances : Prop :=
  ∀ s t : State, s.phase = .evaluating → step s = .next t →
    (t.phase = .evaluating → ∃ i rest, s.fetch = .ok i rest ∧ t.n = s.n + 1 ∧
      t.pc = s.pc + match i with
        | .xor _ _ _ => 7
        | .and _ _ _ => 7
        | .or _ _ _ => 7
        | .not _ _ => 5
        | .random _ => 3) ∧
    (t.phase = .idle → t.pc = s.pc ∧ t.n = s.n)

/-- R23, R24 to R26: no step changes the header, the tables or the opcode stream behind a handle. -/
def Obligations.CircuitsAreImmutableButForWires : Prop :=
  ∀ (s t : State) (h : Nat) (c : Circuit), step s = .next t → s.circuits[h]? = some c →
    ∃ m, t.circuits[h]? = some { c with ram := m }

/-- R40: an Evaluate changes nothing behind another handle: neither the step that starts it or turns it away, nor any
step while it is in flight. -/
def Obligations.HandlesShareNoCircuitState : Prop :=
  (∀ (s t : State) (h h' : Nat) (c : Circuit) (input : List Byte) (b : Int) (attached : Bool) (draws : SinkDraws),
    s.AsksEvaluate h c input b attached draws → step s = .next t → h' ≠ h → t.circuits[h']? = s.circuits[h']?) ∧
  ∀ (s t : State) (h : Nat), s.phase = .evaluating → step s = .next t → h ≠ s.current →
    t.circuits[h]? = s.circuits[h]?

/-- R33: `random_enable` is written only by SetRandomEnable, and so holds for the whole of an Evaluate (R94). -/
def Obligations.OnlySetRandomEnableWritesTheFlag : Prop :=
  ∀ s t : State, step s = .next t → t.randomEnable ≠ s.randomEnable → s.Asks (.setRandomEnable t.randomEnable)

/-- R13: no step changes the parameter `TAG`. -/
def Obligations.TagsAreNeverWritten : Prop :=
  ∀ s t : State, step s = .next t → t.tags = s.tags

/-- R34, R50: the random source changes only by a RANDOM that draws, which takes exactly one draw, or by Reseed. The form
of the source is the model's (log entry 2). -/
def Obligations.OnlyDrawsAndReseedTouchTheSource : Prop :=
  ∀ s t : State, step s = .next t → t.randomSource ≠ s.randomSource →
    (s.Asks .reseed ∧ t.randomSource = { sequence := s.randomSource.sequence + 1, drawn := 0, supplied := [] }) ∨
    (s.phase = .evaluating ∧ s.randomEnable = true ∧
      t.randomSource =
        { sequence := s.randomSource.sequence, drawn := s.randomSource.drawn + 1
          supplied := s.randomSource.supplied.tail } ∧
      ∃ d rest, s.fetch = .ok (.random d) rest)

/-- R112, deterministic mode: with `random_enable` false an Evaluate does not depend on the random source. -/
def Obligations.DeterministicModeIgnoresTheSource : Prop :=
  ∀ (s t : State) (source : RandomSource), s.phase = .evaluating → s.randomEnable = false → step s = .next t →
    step { s with randomSource := source } = .next { t with randomSource := source }

/-- R115: inactive lanes stay zero. They are zero when an Evaluate starts, and a step keeps them so unless it runs a
RANDOM with `random_enable` true. -/
def Obligations.InactiveLanesStayZero : Prop :=
  (∀ (s t : State) (h : Nat) (c : Circuit) (input : List Byte) (b : Int) (attached : Bool) (draws : SinkDraws),
    s.AsksEvaluate h c input b attached draws → c.Accepts input b attached draws → step s = .next t →
    t.inactiveLanesZero) ∧
  ∀ s t : State, s.phase = .evaluating → s.inactiveLanesZero →
    (s.randomEnable = false ∨ ∀ d rest, s.fetch ≠ .ok (.random d) rest) →
    step s = .next t → t.inactiveLanesZero

/-- R145, R37: an Evaluate behaves exactly as it would have without the runs before it, aborted or not. Whatever wires
and evaluation registers they left, an Evaluate that starts starts from the same state, and one that its checks or its
sink turn away gives the host the same answer; only the host's earlier output buffer and responses tell the two
machines apart. No step in flight reads those two: whatever they hold, it goes on or ends alike and adds the same
answer. That the unspecified bytes of the two answers agree rests on an equal freeSerial, and that later draws do
on an equal source: both are the model's choices (log entries 4 and 2). -/
def Obligations.EvaluateForgetsEarlierRuns : Prop :=
  (∀ (s s' : State) (h : Nat) (c : Circuit) (m : Memory) (input : List Byte) (b : Int) (attached : Bool)
    (draws : SinkDraws),
    s.AsksEvaluate h c input b attached draws →
    s'.phase = .idle → s'.requests = s.requests → s'.circuits = s.circuits.set h { c with ram := m } →
    s'.tags = s.tags → s'.randomEnable = s.randomEnable → s'.randomSource = s.randomSource →
    s'.freeSerial = s.freeSerial →
    ∃ t t', step s = .next t ∧ step s' = .next t' ∧
      (c.Accepts input b attached draws → t.phase = .evaluating ∧
        t' = { t with output := s'.output, responses := s'.responses }) ∧
      (¬ c.Accepts input b attached draws → t.phase = .idle ∧ t'.phase = .idle ∧
        ∃ answer, t.responses = s.responses ++ [answer] ∧ t'.responses = s'.responses ++ [answer])) ∧
  ∀ (s t : State) (output : List Byte) (responses : List Response), s.phase = .evaluating → step s = .next t →
    (t.phase = .evaluating →
      step { s with output := output, responses := responses } =
        .next { t with output := output, responses := responses }) ∧
    (t.phase = .idle → ∃ answer, t.responses = s.responses ++ [answer] ∧
      step { s with output := output, responses := responses } = .next { t with responses := responses ++ [answer] })

/-- R125: a circuit with no instructions whose output table is its input table gives back the input bits: each output
bit of each instance is the same input bit, and so a single 1 comes out as that 1 and nothing else. That the Evaluate
takes two steps is the model's choice (log entry 8). -/
def Obligations.CodecRoundTrip : Prop :=
  ∀ (s : State) (h : Nat) (c : Circuit) (input : List Byte) (b : Int) (attached : Bool) (draws : SinkDraws),
    s.AsksEvaluate h c input b attached draws → c.wf → c.header.numOpcodes = 0 → c.header.opcodesSize = 0 →
    c.header.outputSize = c.header.inputSize → c.outputAddr = c.inputAddr →
    c.Accepts input b attached draws → (attached && draws.closeFails) = false →
    ∃ t, Sys2Proof.core.run 2 s = .next t ∧ t.phase = .idle ∧ t.status = .ok ∧ t.output.length = input.length ∧
      ∀ i j, i < c.header.inputSize.toNat → j < b.toNat →
        bufferBit t.output (j * bytesForBits c.header.outputSize.toNat) i =
          bufferBit input (j * bytesForBits c.header.inputSize.toNat) i

/-- R126: batch independence, in deterministic mode or with no RANDOM in the stream. Two Evaluates of one circuit, at any
two batches and after any earlier runs, whose instance j of one and instance j' of the other have the same input bits,
end together with the same status, and if they complete these two instances have the same output bits. That they end
after the same number of steps is the model's choice (log entry 8). -/
def Obligations.BatchesAreIndependent : Prop :=
  ∀ (s s' : State) (h h' : Nat) (c : Circuit) (m : Memory) (input input' : List Byte) (b b' : Int) (attached : Bool)
    (draws : SinkDraws) (j j' k : Nat) (t t' : State),
    s.AsksEvaluate h c input b attached draws → c.Accepts input b attached draws → s.requests.length = 1 →
    s'.AsksEvaluate h' { c with ram := m } input' b' attached draws →
    ({ c with ram := m } : Circuit).Accepts input' b' attached draws → s'.requests.length = 1 →
    c.wf → s.tags = s'.tags → (s.randomEnable = false ∧ s'.randomEnable = false ∨ c.noRandom s.tags) →
    j < b.toNat → j' < b'.toNat →
    (∀ i, i < c.header.inputSize.toNat →
      bufferBit input (j * bytesForBits c.header.inputSize.toNat) i =
        bufferBit input' (j' * bytesForBits c.header.inputSize.toNat) i) →
    0 < k → Sys2Proof.core.run k s = .next t → Sys2Proof.core.run k s' = .next t' → t.phase = .idle →
    t'.phase = .idle ∧ t'.status = t.status ∧
    (t.status = .ok → ∀ i, i < c.header.outputSize.toNat →
      bufferBit t.output (j * bytesForBits c.header.outputSize.toNat) i =
        bufferBit t'.output (j' * bytesForBits c.header.outputSize.toNat) i)

/-- R87: MalformedFile is the class of MalformedHeader, MalformedTable and MalformedOpcodes. -/
def Obligations.MalformedFileIsThreeKinds : Prop :=
  ∀ e : TransactionError,
    e.isMalformedFile = true ↔ ∃ n, e = .malformedHeader n ∨ e = .malformedTable n ∨ e = .malformedOpcodes n

/-- R136: the numeric code of each error; both kinds of AddressOutOfRange have code 9, `ok` has code 0, and the class
MalformedFile is codes 1 to 3. The numbers are the spec's own (its decision D20). -/
def Obligations.ErrorsHaveTheirCodes : Prop :=
  Status.ok.code = 0 ∧
  (∀ e : TransactionError, e.isMalformedFile = true ↔ 1 ≤ e.code ∧ e.code ≤ 3) ∧
  ∀ (k n pc : Nat) (b : Int) (p : IoPhase) (t : Byte) (tab : Table) (a : WireAddr),
    (Status.fault (.malformedHeader k)).code = 1 ∧ (Status.fault (.malformedTable k)).code = 2 ∧
    (Status.fault (.malformedOpcodes k)).code = 3 ∧ (Status.fault .outOfMemory).code = 4 ∧
    (Status.fault (.invalidBatch b)).code = 5 ∧ (Status.fault (.ioError p)).code = 6 ∧
    (Status.fault (.unknownOpcode n pc t)).code = 7 ∧ (Status.fault (.truncatedInstruction n pc)).code = 8 ∧
    (Status.fault (.tableAddressOutOfRange tab k a)).code = 9 ∧
    (Status.fault (.operandAddressOutOfRange n pc a)).code = 9 ∧
    (Status.fault (.streamLengthMismatch pc k)).code = 10 ∧ (Status.fault (.duplicateInputAddress n k)).code = 11 ∧
    (Status.fault (.inputLengthMismatch k)).code = 12
end

