-- ==== Sys2Proof/Laws/Memory.lean ====
section
/-! SUPPORT. The laws of a wire memory: a read after a write, and every operation keeps the canonical form. -/

namespace Sys2Proof.Machine.Memory

@[simp] theorem read_nil (a : Nat) : Memory.read [] a = 0 := rfl

theorem read_erase_same (m : Memory) (a : Nat) : (m.erase a).read a = 0 := by
  induction m with
  | nil => rfl
  | cons c m ih =>
    by_cases h : c.1 = a
    · simpa [erase, List.filter_cons, h] using ih
    · simpa [erase, List.filter_cons, h, Ne.symm h, read] using ih

theorem read_erase_other (m : Memory) {a x : Nat} (hx : x ≠ a) : (m.erase a).read x = m.read x := by
  induction m with
  | nil => rfl
  | cons c m ih =>
    by_cases h : c.1 = a
    · simpa [erase, List.filter_cons, h, read, hx] using ih
    · by_cases hc : x = c.1
      · simp [erase, h, read, hc]
      · simpa [erase, List.filter_cons, h, read, hc] using ih

theorem read_insert (m : Memory) (a : Nat) (v : Word) (x : Nat) (hm : m.read a = 0)
    (he : ∀ c ∈ m, c.1 ≠ a) :
    (m.insert a v).read x = if x = a then v else m.read x := by
  induction m with
  | nil => simp [insert, read]
  | cons c m ih =>
    have hc : c.1 ≠ a := he c (by simp)
    by_cases h : a < c.1
    · simp [insert, h, read]
    · have hread : Memory.read m a = 0 := by simpa [read, Ne.symm hc] using hm
      have := ih hread fun c' hc' => he c' (by simp [hc'])
      by_cases hx : x = c.1
      · simp [insert, h, read, hx, hc]
      · simp [insert, h, read, hx, this]

theorem mem_erase {m : Memory} {a : Nat} {c : Nat × Word} : c ∈ m.erase a ↔ c ∈ m ∧ c.1 ≠ a := by
  simp [erase]

theorem mem_insert {m : Memory} {a : Nat} {v : Word} {c : Nat × Word} :
    c ∈ m.insert a v ↔ c = (a, v) ∨ c ∈ m := by
  induction m with
  | nil => simp [insert]
  | cons d m ih =>
    by_cases h : a < d.1
    · simp [insert, h]
    · simp only [insert, h, if_false, List.mem_cons, ih]
      tauto

/-- A read after a write: the word written at its address, and every other address as before. -/
theorem read_write (m : Memory) (a : Nat) (v : Word) (x : Nat) :
    (m.write a v).read x = if x = a then v else m.read x := by
  unfold write
  split
  · rename_i hv
    by_cases hx : x = a
    · simp [hx, hv, read_erase_same]
    · simp [hx, read_erase_other m hx]
  · rename_i hv
    rw [read_insert _ _ _ _ (read_erase_same m a) fun c hc => (mem_erase.1 hc).2]
    by_cases hx : x = a
    · simp [hx]
    · simp [hx, read_erase_other m hx]

@[simp] theorem read_write_same (m : Memory) (a : Nat) (v : Word) : (m.write a v).read a = v := by
  simp [read_write]

theorem read_write_other (m : Memory) {a x : Nat} (v : Word) (hx : x ≠ a) : (m.write a v).read x = m.read x := by
  simp [read_write, hx]

/-! ## The canonical form -/

theorem wf_nil : Memory.wf [] := by simp [Memory.wf]

theorem erase_wf {m : Memory} (h : m.wf) (a : Nat) : (m.erase a).wf :=
  ⟨h.1.filter _, fun c hc => h.2 c (mem_erase.1 hc).1⟩

theorem insert_wf {m : Memory} (h : m.wf) {a : Nat} {v : Word} (hv : v ≠ 0) (ha : ∀ c ∈ m, c.1 ≠ a) :
    (m.insert a v).wf := by
  induction m with
  | nil => exact ⟨List.pairwise_singleton _ _, by simpa [insert] using hv⟩
  | cons c m ih =>
    have hc : c.1 ≠ a := ha c (by simp)
    obtain ⟨hp, hz⟩ := h
    rw [List.pairwise_cons] at hp
    by_cases hlt : a < c.1
    · refine ⟨?_, fun d hd => ?_⟩
      · simp only [insert, hlt, if_true, List.pairwise_cons]
        refine ⟨fun d hd => ?_, hp⟩
        rcases List.mem_cons.1 hd with rfl | hd
        · exact hlt
        · exact Nat.lt_trans hlt (hp.1 d hd)
      · simp only [insert, hlt, if_true, List.mem_cons] at hd
        rcases hd with rfl | hd
        · exact hv
        · exact hz d (List.mem_cons.2 hd)
    · have hrec := ih ⟨hp.2, fun d hd => hz d (by simp [hd])⟩ fun d hd => ha d (by simp [hd])
      refine ⟨?_, fun d hd => ?_⟩
      · simp only [insert, hlt, if_false, List.pairwise_cons]
        refine ⟨fun d hd => ?_, hrec.1⟩
        rcases mem_insert.1 hd with rfl | hd
        · simp only []; omega
        · exact hp.1 d hd
      · simp only [insert, hlt, if_false, List.mem_cons] at hd
        rcases hd with rfl | hd
        · exact hz _ (by simp)
        · exact hrec.2 d hd

/-- A write keeps the canonical form. -/
theorem write_wf {m : Memory} (h : m.wf) (a : Nat) (v : Word) : (m.write a v).wf := by
  unfold write
  split
  · exact erase_wf h a
  · rename_i hv
    exact insert_wf (erase_wf h a) hv fun c hc => (mem_erase.1 hc).2

/-- A write lists no address but its own beside those listed. -/
theorem mem_write {m : Memory} {a : Nat} {v : Word} {c : Nat × Word} (hc : c ∈ m.write a v) : c.1 = a ∨ c ∈ m := by
  unfold write at hc
  split at hc
  · exact .inr (mem_erase.1 hc).1
  · rcases mem_insert.1 hc with rfl | hc
    · exact .inl rfl
    · exact .inr (mem_erase.1 hc).1

theorem write_below {m : Memory} {size a : Nat} (v : Word) (h : ∀ c ∈ m, c.1 < size) (ha : a < size) :
    ∀ c ∈ m.write a v, c.1 < size := fun c hc => by
  rcases mem_write hc with h' | h'
  · omega
  · exact h c h'

/-- The memory of some cells is canonical and lists addresses below its size only. -/
theorem ofCells_wf (size : Nat) (cells : List (Nat × Word)) :
    (Memory.ofCells size cells).wf ∧ ∀ c ∈ Memory.ofCells size cells, c.1 < size := by
  suffices h : ∀ (m : Memory), m.wf → (∀ c ∈ m, c.1 < size) →
      let m' := cells.foldl (fun m c => if c.1 < size then m.write c.1 c.2 else m) m
      m'.wf ∧ ∀ c ∈ m', c.1 < size from
    h [] wf_nil (by simp)
  induction cells with
  | nil => exact fun m hm hb => ⟨hm, hb⟩
  | cons c cells ih =>
    intro m hm hb
    simp only [List.foldl_cons]
    split
    · rename_i hc
      exact ih _ (write_wf hm _ _) (write_below _ hb hc)
    · exact ih m hm hb

/-- A canonical memory reads as 0 below its first cell. -/
theorem read_eq_zero_of_lt {m : Memory} {a : Nat} (h : ∀ c ∈ m, a < c.1) : m.read a = 0 := by
  induction m with
  | nil => rfl
  | cons c m ih =>
    have : ¬ a = c.1 := Nat.ne_of_lt (h c (by simp))
    simpa [read, this] using ih fun d hd => h d (by simp [hd])

/-- Canonical memories that read alike are equal data. -/
theorem ext_of_read {m m' : Memory} (h : m.wf) (h' : m'.wf) (hr : ∀ a, m.read a = m'.read a) : m = m' := by
  induction m generalizing m' with
  | nil =>
    cases m' with
    | nil => rfl
    | cons c m' =>
      have := hr c.1
      exact absurd this.symm (by simpa [read] using h'.2 c (by simp))
  | cons c m ih =>
    cases m' with
    | nil => exact absurd (hr c.1) (by simpa [read] using h.2 c (by simp))
    | cons d m' =>
      have hp := List.pairwise_cons.1 h.1
      have hp' := List.pairwise_cons.1 h'.1
      have hcd : c.1 = d.1 := by
        rcases Nat.lt_trichotomy c.1 d.1 with hlt | heq | hlt
        · have h0 : Memory.read (d :: m') c.1 = 0 := read_eq_zero_of_lt fun e he => by
            rcases List.mem_cons.1 he with rfl | he
            · exact hlt
            · exact Nat.lt_trans hlt (hp'.1 e he)
          have := hr c.1
          rw [h0] at this
          exact absurd this (by simpa [read] using h.2 c (by simp))
        · exact heq
        · have h0 : Memory.read (c :: m) d.1 = 0 := read_eq_zero_of_lt fun e he => by
            rcases List.mem_cons.1 he with rfl | he
            · exact hlt
            · exact Nat.lt_trans hlt (hp.1 e he)
          have := hr d.1
          rw [h0] at this
          exact absurd this.symm (by simpa [read] using h'.2 d (by simp))
      have hv : c.2 = d.2 := by simpa [read, hcd] using hr c.1
      have htail : m = m' := by
        refine ih ⟨hp.2, fun e he => h.2 e (by simp [he])⟩ ⟨hp'.2, fun e he => h'.2 e (by simp [he])⟩ fun a => ?_
        by_cases ha : a = c.1
        · have hl : Memory.read m a = 0 := read_eq_zero_of_lt fun e he => ha ▸ hp.1 e he
          have hl' : Memory.read m' a = 0 := read_eq_zero_of_lt fun e he => by
            have := hp'.1 e he
            omega
          rw [hl, hl']
        · have := hr a
          simpa [read, ha, hcd ▸ ha] using this
      rw [Prod.ext hcd hv, htail]

end Sys2Proof.Machine.Memory
end

