-- ==== Sys2Proof/Laws/State.lean ====
section
/-! SUPPORT. One lemma for each field of State and each update of it: what the update makes of the field. -/

namespace Sys2Proof.Machine.State

variable (s : State)

/-! ### setRam -/

@[simp] theorem setRam_tags (m : Memory) : (s.setRam m).tags = s.tags := rfl
@[simp] theorem setRam_randomEnable (m : Memory) : (s.setRam m).randomEnable = s.randomEnable := rfl
@[simp] theorem setRam_randomSource (m : Memory) : (s.setRam m).randomSource = s.randomSource := rfl
@[simp] theorem setRam_circuits (m : Memory) : (s.setRam m).circuits = s.circuits.set s.current { s.circuit with ram := m } := rfl
@[simp] theorem setRam_phase (m : Memory) : (s.setRam m).phase = s.phase := rfl
@[simp] theorem setRam_current (m : Memory) : (s.setRam m).current = s.current := rfl
@[simp] theorem setRam_pc (m : Memory) : (s.setRam m).pc = s.pc := rfl
@[simp] theorem setRam_n (m : Memory) : (s.setRam m).n = s.n := rfl
@[simp] theorem setRam_b (m : Memory) : (s.setRam m).b = s.b := rfl
@[simp] theorem setRam_notMask (m : Memory) : (s.setRam m).notMask = s.notMask := rfl
@[simp] theorem setRam_traceAttached (m : Memory) : (s.setRam m).traceAttached = s.traceAttached := rfl
@[simp] theorem setRam_sinkOpen (m : Memory) : (s.setRam m).sinkOpen = s.sinkOpen := rfl
@[simp] theorem setRam_trace (m : Memory) : (s.setRam m).trace = s.trace := rfl
@[simp] theorem setRam_partialRecord (m : Memory) : (s.setRam m).partialRecord = s.partialRecord := rfl
@[simp] theorem setRam_sink (m : Memory) : (s.setRam m).sink = s.sink := rfl
@[simp] theorem setRam_input (m : Memory) : (s.setRam m).input = s.input := rfl
@[simp] theorem setRam_output (m : Memory) : (s.setRam m).output = s.output := rfl
@[simp] theorem setRam_status (m : Memory) : (s.setRam m).status = s.status := rfl
@[simp] theorem setRam_requests (m : Memory) : (s.setRam m).requests = s.requests := rfl
@[simp] theorem setRam_responses (m : Memory) : (s.setRam m).responses = s.responses := rfl
@[simp] theorem setRam_freeSerial (m : Memory) : (s.setRam m).freeSerial = s.freeSerial := rfl

/-! ### writeWire -/

@[simp] theorem writeWire_tags (a : Nat) (v : Word) : (s.writeWire a v).tags = s.tags := rfl
@[simp] theorem writeWire_randomEnable (a : Nat) (v : Word) : (s.writeWire a v).randomEnable = s.randomEnable := rfl
@[simp] theorem writeWire_randomSource (a : Nat) (v : Word) : (s.writeWire a v).randomSource = s.randomSource := rfl
@[simp] theorem writeWire_circuits (a : Nat) (v : Word) :
    (s.writeWire a v).circuits = s.circuits.set s.current { s.circuit with ram := s.circuit.ram.write a v } := rfl
@[simp] theorem writeWire_phase (a : Nat) (v : Word) : (s.writeWire a v).phase = s.phase := rfl
@[simp] theorem writeWire_current (a : Nat) (v : Word) : (s.writeWire a v).current = s.current := rfl
@[simp] theorem writeWire_pc (a : Nat) (v : Word) : (s.writeWire a v).pc = s.pc := rfl
@[simp] theorem writeWire_n (a : Nat) (v : Word) : (s.writeWire a v).n = s.n := rfl
@[simp] theorem writeWire_b (a : Nat) (v : Word) : (s.writeWire a v).b = s.b := rfl
@[simp] theorem writeWire_notMask (a : Nat) (v : Word) : (s.writeWire a v).notMask = s.notMask := rfl
@[simp] theorem writeWire_traceAttached (a : Nat) (v : Word) : (s.writeWire a v).traceAttached = s.traceAttached := rfl
@[simp] theorem writeWire_sinkOpen (a : Nat) (v : Word) : (s.writeWire a v).sinkOpen = s.sinkOpen := rfl
@[simp] theorem writeWire_trace (a : Nat) (v : Word) : (s.writeWire a v).trace = s.trace := rfl
@[simp] theorem writeWire_partialRecord (a : Nat) (v : Word) : (s.writeWire a v).partialRecord = s.partialRecord := rfl
@[simp] theorem writeWire_sink (a : Nat) (v : Word) : (s.writeWire a v).sink = s.sink := rfl
@[simp] theorem writeWire_input (a : Nat) (v : Word) : (s.writeWire a v).input = s.input := rfl
@[simp] theorem writeWire_output (a : Nat) (v : Word) : (s.writeWire a v).output = s.output := rfl
@[simp] theorem writeWire_status (a : Nat) (v : Word) : (s.writeWire a v).status = s.status := rfl
@[simp] theorem writeWire_requests (a : Nat) (v : Word) : (s.writeWire a v).requests = s.requests := rfl
@[simp] theorem writeWire_responses (a : Nat) (v : Word) : (s.writeWire a v).responses = s.responses := rfl
@[simp] theorem writeWire_freeSerial (a : Nat) (v : Word) : (s.writeWire a v).freeSerial = s.freeSerial := rfl

/-! ### consumeDraw -/

@[simp] theorem consumeDraw_tags : s.consumeDraw.tags = s.tags := rfl
@[simp] theorem consumeDraw_randomEnable : s.consumeDraw.randomEnable = s.randomEnable := rfl
@[simp] theorem consumeDraw_randomSource :
    s.consumeDraw.randomSource = if s.randomEnable then s.randomSource.advance else s.randomSource := rfl
@[simp] theorem consumeDraw_circuits : s.consumeDraw.circuits = s.circuits := rfl
@[simp] theorem consumeDraw_phase : s.consumeDraw.phase = s.phase := rfl
@[simp] theorem consumeDraw_current : s.consumeDraw.current = s.current := rfl
@[simp] theorem consumeDraw_pc : s.consumeDraw.pc = s.pc := rfl
@[simp] theorem consumeDraw_n : s.consumeDraw.n = s.n := rfl
@[simp] theorem consumeDraw_b : s.consumeDraw.b = s.b := rfl
@[simp] theorem consumeDraw_notMask : s.consumeDraw.notMask = s.notMask := rfl
@[simp] theorem consumeDraw_traceAttached : s.consumeDraw.traceAttached = s.traceAttached := rfl
@[simp] theorem consumeDraw_sinkOpen : s.consumeDraw.sinkOpen = s.sinkOpen := rfl
@[simp] theorem consumeDraw_trace : s.consumeDraw.trace = s.trace := rfl
@[simp] theorem consumeDraw_partialRecord : s.consumeDraw.partialRecord = s.partialRecord := rfl
@[simp] theorem consumeDraw_sink : s.consumeDraw.sink = s.sink := rfl
@[simp] theorem consumeDraw_input : s.consumeDraw.input = s.input := rfl
@[simp] theorem consumeDraw_output : s.consumeDraw.output = s.output := rfl
@[simp] theorem consumeDraw_status : s.consumeDraw.status = s.status := rfl
@[simp] theorem consumeDraw_requests : s.consumeDraw.requests = s.requests := rfl
@[simp] theorem consumeDraw_responses : s.consumeDraw.responses = s.responses := rfl
@[simp] theorem consumeDraw_freeSerial : s.consumeDraw.freeSerial = s.freeSerial := rfl

/-! ### endTransaction -/

@[simp] theorem endTransaction_tags (st : Status) (r : Response) : (s.endTransaction st r).tags = s.tags := rfl
@[simp] theorem endTransaction_randomEnable (st : Status) (r : Response) : (s.endTransaction st r).randomEnable = s.randomEnable := rfl
@[simp] theorem endTransaction_randomSource (st : Status) (r : Response) : (s.endTransaction st r).randomSource = s.randomSource := rfl
@[simp] theorem endTransaction_circuits (st : Status) (r : Response) : (s.endTransaction st r).circuits = s.circuits := rfl
@[simp] theorem endTransaction_phase (st : Status) (r : Response) : (s.endTransaction st r).phase = .idle := rfl
@[simp] theorem endTransaction_current (st : Status) (r : Response) : (s.endTransaction st r).current = s.current := rfl
@[simp] theorem endTransaction_pc (st : Status) (r : Response) : (s.endTransaction st r).pc = s.pc := rfl
@[simp] theorem endTransaction_n (st : Status) (r : Response) : (s.endTransaction st r).n = s.n := rfl
@[simp] theorem endTransaction_b (st : Status) (r : Response) : (s.endTransaction st r).b = s.b := rfl
@[simp] theorem endTransaction_notMask (st : Status) (r : Response) : (s.endTransaction st r).notMask = s.notMask := rfl
@[simp] theorem endTransaction_traceAttached (st : Status) (r : Response) : (s.endTransaction st r).traceAttached = s.traceAttached := rfl
@[simp] theorem endTransaction_sinkOpen (st : Status) (r : Response) : (s.endTransaction st r).sinkOpen = s.sinkOpen := rfl
@[simp] theorem endTransaction_trace (st : Status) (r : Response) : (s.endTransaction st r).trace = s.trace := rfl
@[simp] theorem endTransaction_partialRecord (st : Status) (r : Response) : (s.endTransaction st r).partialRecord = s.partialRecord := rfl
@[simp] theorem endTransaction_sink (st : Status) (r : Response) : (s.endTransaction st r).sink = s.sink := rfl
@[simp] theorem endTransaction_input (st : Status) (r : Response) : (s.endTransaction st r).input = s.input := rfl
@[simp] theorem endTransaction_output (st : Status) (r : Response) : (s.endTransaction st r).output = s.output := rfl
@[simp] theorem endTransaction_status (st : Status) (r : Response) : (s.endTransaction st r).status = st := rfl
@[simp] theorem endTransaction_requests (st : Status) (r : Response) : (s.endTransaction st r).requests = s.requests := rfl
@[simp] theorem endTransaction_responses (st : Status) (r : Response) : (s.endTransaction st r).responses = s.responses ++ [r] := rfl
@[simp] theorem endTransaction_freeSerial (st : Status) (r : Response) : (s.endTransaction st r).freeSerial = s.freeSerial := rfl

/-! ### closeSink -/

@[simp] theorem closeSink_tags : s.closeSink.tags = s.tags := rfl
@[simp] theorem closeSink_randomEnable : s.closeSink.randomEnable = s.randomEnable := rfl
@[simp] theorem closeSink_randomSource : s.closeSink.randomSource = s.randomSource := rfl
@[simp] theorem closeSink_circuits : s.closeSink.circuits = s.circuits := rfl
@[simp] theorem closeSink_phase : s.closeSink.phase = s.phase := rfl
@[simp] theorem closeSink_current : s.closeSink.current = s.current := rfl
@[simp] theorem closeSink_pc : s.closeSink.pc = s.pc := rfl
@[simp] theorem closeSink_n : s.closeSink.n = s.n := rfl
@[simp] theorem closeSink_b : s.closeSink.b = s.b := rfl
@[simp] theorem closeSink_notMask : s.closeSink.notMask = s.notMask := rfl
@[simp] theorem closeSink_traceAttached : s.closeSink.traceAttached = s.traceAttached := rfl
@[simp] theorem closeSink_sinkOpen : s.closeSink.sinkOpen = false := rfl
@[simp] theorem closeSink_trace : s.closeSink.trace = s.trace := rfl
@[simp] theorem closeSink_partialRecord : s.closeSink.partialRecord = s.partialRecord := rfl
@[simp] theorem closeSink_sink : s.closeSink.sink = s.sink := rfl
@[simp] theorem closeSink_input : s.closeSink.input = s.input := rfl
@[simp] theorem closeSink_output : s.closeSink.output = s.output := rfl
@[simp] theorem closeSink_status : s.closeSink.status = s.status := rfl
@[simp] theorem closeSink_requests : s.closeSink.requests = s.requests := rfl
@[simp] theorem closeSink_responses : s.closeSink.responses = s.responses := rfl
@[simp] theorem closeSink_freeSerial : s.closeSink.freeSerial = s.freeSerial := rfl

/-! ### setOutput -/

@[simp] theorem setOutput_tags (out : List Byte) : (s.setOutput out).tags = s.tags := rfl
@[simp] theorem setOutput_randomEnable (out : List Byte) : (s.setOutput out).randomEnable = s.randomEnable := rfl
@[simp] theorem setOutput_randomSource (out : List Byte) : (s.setOutput out).randomSource = s.randomSource := rfl
@[simp] theorem setOutput_circuits (out : List Byte) : (s.setOutput out).circuits = s.circuits := rfl
@[simp] theorem setOutput_phase (out : List Byte) : (s.setOutput out).phase = s.phase := rfl
@[simp] theorem setOutput_current (out : List Byte) : (s.setOutput out).current = s.current := rfl
@[simp] theorem setOutput_pc (out : List Byte) : (s.setOutput out).pc = s.pc := rfl
@[simp] theorem setOutput_n (out : List Byte) : (s.setOutput out).n = s.n := rfl
@[simp] theorem setOutput_b (out : List Byte) : (s.setOutput out).b = s.b := rfl
@[simp] theorem setOutput_notMask (out : List Byte) : (s.setOutput out).notMask = s.notMask := rfl
@[simp] theorem setOutput_traceAttached (out : List Byte) : (s.setOutput out).traceAttached = s.traceAttached := rfl
@[simp] theorem setOutput_sinkOpen (out : List Byte) : (s.setOutput out).sinkOpen = s.sinkOpen := rfl
@[simp] theorem setOutput_trace (out : List Byte) : (s.setOutput out).trace = s.trace := rfl
@[simp] theorem setOutput_partialRecord (out : List Byte) : (s.setOutput out).partialRecord = s.partialRecord := rfl
@[simp] theorem setOutput_sink (out : List Byte) : (s.setOutput out).sink = s.sink := rfl
@[simp] theorem setOutput_input (out : List Byte) : (s.setOutput out).input = s.input := rfl
@[simp] theorem setOutput_output (out : List Byte) : (s.setOutput out).output = out := rfl
@[simp] theorem setOutput_status (out : List Byte) : (s.setOutput out).status = s.status := rfl
@[simp] theorem setOutput_requests (out : List Byte) : (s.setOutput out).requests = s.requests := rfl
@[simp] theorem setOutput_responses (out : List Byte) : (s.setOutput out).responses = s.responses := rfl
@[simp] theorem setOutput_freeSerial (out : List Byte) : (s.setOutput out).freeSerial = s.freeSerial + 1 := rfl

/-! ### abort -/

@[simp] theorem abortBatch_tags (batch : Nat) (e : TransactionError) : (s.abortBatch batch e).tags = s.tags := rfl
@[simp] theorem abortBatch_randomEnable (batch : Nat) (e : TransactionError) : (s.abortBatch batch e).randomEnable = s.randomEnable := rfl
@[simp] theorem abortBatch_randomSource (batch : Nat) (e : TransactionError) : (s.abortBatch batch e).randomSource = s.randomSource := rfl
@[simp] theorem abortBatch_circuits (batch : Nat) (e : TransactionError) : (s.abortBatch batch e).circuits = s.circuits := rfl
@[simp] theorem abortBatch_phase (batch : Nat) (e : TransactionError) : (s.abortBatch batch e).phase = .idle := rfl
@[simp] theorem abortBatch_current (batch : Nat) (e : TransactionError) : (s.abortBatch batch e).current = s.current := rfl
@[simp] theorem abortBatch_pc (batch : Nat) (e : TransactionError) : (s.abortBatch batch e).pc = s.pc := rfl
@[simp] theorem abortBatch_n (batch : Nat) (e : TransactionError) : (s.abortBatch batch e).n = s.n := rfl
@[simp] theorem abortBatch_b (batch : Nat) (e : TransactionError) : (s.abortBatch batch e).b = s.b := rfl
@[simp] theorem abortBatch_notMask (batch : Nat) (e : TransactionError) : (s.abortBatch batch e).notMask = s.notMask := rfl
@[simp] theorem abortBatch_traceAttached (batch : Nat) (e : TransactionError) : (s.abortBatch batch e).traceAttached = s.traceAttached := rfl
@[simp] theorem abortBatch_sinkOpen (batch : Nat) (e : TransactionError) : (s.abortBatch batch e).sinkOpen = false := rfl
@[simp] theorem abortBatch_trace (batch : Nat) (e : TransactionError) : (s.abortBatch batch e).trace = s.trace := rfl
@[simp] theorem abortBatch_partialRecord (batch : Nat) (e : TransactionError) : (s.abortBatch batch e).partialRecord = s.partialRecord := rfl
@[simp] theorem abortBatch_sink (batch : Nat) (e : TransactionError) : (s.abortBatch batch e).sink = s.sink := rfl
@[simp] theorem abortBatch_input (batch : Nat) (e : TransactionError) : (s.abortBatch batch e).input = s.input := rfl
@[simp] theorem abortBatch_output (batch : Nat) (e : TransactionError) : (s.abortBatch batch e).output = s.unspecifiedOutput batch := rfl
@[simp] theorem abortBatch_status (batch : Nat) (e : TransactionError) : (s.abortBatch batch e).status = .fault e := rfl
@[simp] theorem abortBatch_requests (batch : Nat) (e : TransactionError) : (s.abortBatch batch e).requests = s.requests := rfl
@[simp] theorem abortBatch_responses (batch : Nat) (e : TransactionError) :
    (s.abortBatch batch e).responses = s.responses ++ [.evaluated (.fault e) (s.unspecifiedOutput batch) s.trace s.partialRecord] := rfl
@[simp] theorem abortBatch_freeSerial (batch : Nat) (e : TransactionError) : (s.abortBatch batch e).freeSerial = s.freeSerial + 1 := rfl

@[simp] theorem abort_tags (e : TransactionError) : (s.abort e).tags = s.tags := rfl
@[simp] theorem abort_randomEnable (e : TransactionError) : (s.abort e).randomEnable = s.randomEnable := rfl
@[simp] theorem abort_randomSource (e : TransactionError) : (s.abort e).randomSource = s.randomSource := rfl
@[simp] theorem abort_circuits (e : TransactionError) : (s.abort e).circuits = s.circuits := rfl
@[simp] theorem abort_phase (e : TransactionError) : (s.abort e).phase = .idle := rfl
@[simp] theorem abort_current (e : TransactionError) : (s.abort e).current = s.current := rfl
@[simp] theorem abort_pc (e : TransactionError) : (s.abort e).pc = s.pc := rfl
@[simp] theorem abort_n (e : TransactionError) : (s.abort e).n = s.n := rfl
@[simp] theorem abort_b (e : TransactionError) : (s.abort e).b = s.b := rfl
@[simp] theorem abort_notMask (e : TransactionError) : (s.abort e).notMask = s.notMask := rfl
@[simp] theorem abort_traceAttached (e : TransactionError) : (s.abort e).traceAttached = s.traceAttached := rfl
@[simp] theorem abort_sinkOpen (e : TransactionError) : (s.abort e).sinkOpen = false := rfl
@[simp] theorem abort_trace (e : TransactionError) : (s.abort e).trace = s.trace := rfl
@[simp] theorem abort_partialRecord (e : TransactionError) : (s.abort e).partialRecord = s.partialRecord := rfl
@[simp] theorem abort_sink (e : TransactionError) : (s.abort e).sink = s.sink := rfl
@[simp] theorem abort_input (e : TransactionError) : (s.abort e).input = s.input := rfl
@[simp] theorem abort_output (e : TransactionError) : (s.abort e).output = s.unspecifiedOutput s.b := rfl
@[simp] theorem abort_status (e : TransactionError) : (s.abort e).status = .fault e := rfl
@[simp] theorem abort_requests (e : TransactionError) : (s.abort e).requests = s.requests := rfl
@[simp] theorem abort_responses (e : TransactionError) :
    (s.abort e).responses = s.responses ++ [.evaluated (.fault e) (s.unspecifiedOutput s.b) s.trace s.partialRecord] := rfl
@[simp] theorem abort_freeSerial (e : TransactionError) : (s.abort e).freeSerial = s.freeSerial + 1 := rfl

/-! ### appendRecord -/

@[simp] theorem appendRecord_tags (r : Word) : (s.appendRecord r).tags = s.tags := rfl
@[simp] theorem appendRecord_randomEnable (r : Word) : (s.appendRecord r).randomEnable = s.randomEnable := rfl
@[simp] theorem appendRecord_randomSource (r : Word) : (s.appendRecord r).randomSource = s.randomSource := rfl
@[simp] theorem appendRecord_circuits (r : Word) : (s.appendRecord r).circuits = s.circuits := rfl
@[simp] theorem appendRecord_phase (r : Word) : (s.appendRecord r).phase = s.phase := rfl
@[simp] theorem appendRecord_current (r : Word) : (s.appendRecord r).current = s.current := rfl
@[simp] theorem appendRecord_pc (r : Word) : (s.appendRecord r).pc = s.pc := rfl
@[simp] theorem appendRecord_n (r : Word) : (s.appendRecord r).n = s.n := rfl
@[simp] theorem appendRecord_b (r : Word) : (s.appendRecord r).b = s.b := rfl
@[simp] theorem appendRecord_notMask (r : Word) : (s.appendRecord r).notMask = s.notMask := rfl
@[simp] theorem appendRecord_traceAttached (r : Word) : (s.appendRecord r).traceAttached = s.traceAttached := rfl
@[simp] theorem appendRecord_sinkOpen (r : Word) : (s.appendRecord r).sinkOpen = s.sinkOpen := rfl
@[simp] theorem appendRecord_trace (r : Word) :
    (s.appendRecord r).trace = if s.traceAttached then s.trace ++ [traceRecord s.b r] else s.trace := rfl
@[simp] theorem appendRecord_partialRecord (r : Word) : (s.appendRecord r).partialRecord = s.partialRecord := rfl
@[simp] theorem appendRecord_sink (r : Word) : (s.appendRecord r).sink = s.sink := rfl
@[simp] theorem appendRecord_input (r : Word) : (s.appendRecord r).input = s.input := rfl
@[simp] theorem appendRecord_output (r : Word) : (s.appendRecord r).output = s.output := rfl
@[simp] theorem appendRecord_status (r : Word) : (s.appendRecord r).status = s.status := rfl
@[simp] theorem appendRecord_requests (r : Word) : (s.appendRecord r).requests = s.requests := rfl
@[simp] theorem appendRecord_responses (r : Word) : (s.appendRecord r).responses = s.responses := rfl
@[simp] theorem appendRecord_freeSerial (r : Word) : (s.appendRecord r).freeSerial = s.freeSerial := rfl

/-! ### leavePartialRecord -/

@[simp] theorem leavePartialRecord_tags (r : Word) : (s.leavePartialRecord r).tags = s.tags := rfl
@[simp] theorem leavePartialRecord_randomEnable (r : Word) : (s.leavePartialRecord r).randomEnable = s.randomEnable := rfl
@[simp] theorem leavePartialRecord_randomSource (r : Word) : (s.leavePartialRecord r).randomSource = s.randomSource := rfl
@[simp] theorem leavePartialRecord_circuits (r : Word) : (s.leavePartialRecord r).circuits = s.circuits := rfl
@[simp] theorem leavePartialRecord_phase (r : Word) : (s.leavePartialRecord r).phase = s.phase := rfl
@[simp] theorem leavePartialRecord_current (r : Word) : (s.leavePartialRecord r).current = s.current := rfl
@[simp] theorem leavePartialRecord_pc (r : Word) : (s.leavePartialRecord r).pc = s.pc := rfl
@[simp] theorem leavePartialRecord_n (r : Word) : (s.leavePartialRecord r).n = s.n := rfl
@[simp] theorem leavePartialRecord_b (r : Word) : (s.leavePartialRecord r).b = s.b := rfl
@[simp] theorem leavePartialRecord_notMask (r : Word) : (s.leavePartialRecord r).notMask = s.notMask := rfl
@[simp] theorem leavePartialRecord_traceAttached (r : Word) : (s.leavePartialRecord r).traceAttached = s.traceAttached := rfl
@[simp] theorem leavePartialRecord_sinkOpen (r : Word) : (s.leavePartialRecord r).sinkOpen = s.sinkOpen := rfl
@[simp] theorem leavePartialRecord_trace (r : Word) : (s.leavePartialRecord r).trace = s.trace := rfl
@[simp] theorem leavePartialRecord_partialRecord (r : Word) :
    (s.leavePartialRecord r).partialRecord = (traceRecord s.b r).take (Config.partialRecordLength s.freeSerial) := rfl
@[simp] theorem leavePartialRecord_sink (r : Word) : (s.leavePartialRecord r).sink = s.sink := rfl
@[simp] theorem leavePartialRecord_input (r : Word) : (s.leavePartialRecord r).input = s.input := rfl
@[simp] theorem leavePartialRecord_output (r : Word) : (s.leavePartialRecord r).output = s.output := rfl
@[simp] theorem leavePartialRecord_status (r : Word) : (s.leavePartialRecord r).status = s.status := rfl
@[simp] theorem leavePartialRecord_requests (r : Word) : (s.leavePartialRecord r).requests = s.requests := rfl
@[simp] theorem leavePartialRecord_responses (r : Word) : (s.leavePartialRecord r).responses = s.responses := rfl
@[simp] theorem leavePartialRecord_freeSerial (r : Word) : (s.leavePartialRecord r).freeSerial = s.freeSerial + 1 := rfl

/-! ### advance -/

@[simp] theorem advance_tags (w : Nat) : (s.advance w).tags = s.tags := rfl
@[simp] theorem advance_randomEnable (w : Nat) : (s.advance w).randomEnable = s.randomEnable := rfl
@[simp] theorem advance_randomSource (w : Nat) : (s.advance w).randomSource = s.randomSource := rfl
@[simp] theorem advance_circuits (w : Nat) : (s.advance w).circuits = s.circuits := rfl
@[simp] theorem advance_phase (w : Nat) : (s.advance w).phase = s.phase := rfl
@[simp] theorem advance_current (w : Nat) : (s.advance w).current = s.current := rfl
@[simp] theorem advance_pc (w : Nat) : (s.advance w).pc = s.pc + w := rfl
@[simp] theorem advance_n (w : Nat) : (s.advance w).n = s.n + 1 := rfl
@[simp] theorem advance_b (w : Nat) : (s.advance w).b = s.b := rfl
@[simp] theorem advance_notMask (w : Nat) : (s.advance w).notMask = s.notMask := rfl
@[simp] theorem advance_traceAttached (w : Nat) : (s.advance w).traceAttached = s.traceAttached := rfl
@[simp] theorem advance_sinkOpen (w : Nat) : (s.advance w).sinkOpen = s.sinkOpen := rfl
@[simp] theorem advance_trace (w : Nat) : (s.advance w).trace = s.trace := rfl
@[simp] theorem advance_partialRecord (w : Nat) : (s.advance w).partialRecord = s.partialRecord := rfl
@[simp] theorem advance_sink (w : Nat) : (s.advance w).sink = s.sink := rfl
@[simp] theorem advance_input (w : Nat) : (s.advance w).input = s.input := rfl
@[simp] theorem advance_output (w : Nat) : (s.advance w).output = s.output := rfl
@[simp] theorem advance_status (w : Nat) : (s.advance w).status = s.status := rfl
@[simp] theorem advance_requests (w : Nat) : (s.advance w).requests = s.requests := rfl
@[simp] theorem advance_responses (w : Nat) : (s.advance w).responses = s.responses := rfl
@[simp] theorem advance_freeSerial (w : Nat) : (s.advance w).freeSerial = s.freeSerial := rfl

/-! ### popRequest -/

@[simp] theorem popRequest_tags : s.popRequest.tags = s.tags := rfl
@[simp] theorem popRequest_randomEnable : s.popRequest.randomEnable = s.randomEnable := rfl
@[simp] theorem popRequest_randomSource : s.popRequest.randomSource = s.randomSource := rfl
@[simp] theorem popRequest_circuits : s.popRequest.circuits = s.circuits := rfl
@[simp] theorem popRequest_phase : s.popRequest.phase = s.phase := rfl
@[simp] theorem popRequest_current : s.popRequest.current = s.current := rfl
@[simp] theorem popRequest_pc : s.popRequest.pc = s.pc := rfl
@[simp] theorem popRequest_n : s.popRequest.n = s.n := rfl
@[simp] theorem popRequest_b : s.popRequest.b = s.b := rfl
@[simp] theorem popRequest_notMask : s.popRequest.notMask = s.notMask := rfl
@[simp] theorem popRequest_traceAttached : s.popRequest.traceAttached = s.traceAttached := rfl
@[simp] theorem popRequest_sinkOpen : s.popRequest.sinkOpen = s.sinkOpen := rfl
@[simp] theorem popRequest_trace : s.popRequest.trace = s.trace := rfl
@[simp] theorem popRequest_partialRecord : s.popRequest.partialRecord = s.partialRecord := rfl
@[simp] theorem popRequest_sink : s.popRequest.sink = s.sink := rfl
@[simp] theorem popRequest_input : s.popRequest.input = s.input := rfl
@[simp] theorem popRequest_output : s.popRequest.output = s.output := rfl
@[simp] theorem popRequest_status : s.popRequest.status = s.status := rfl
@[simp] theorem popRequest_requests : s.popRequest.requests = s.requests.tail := rfl
@[simp] theorem popRequest_responses : s.popRequest.responses = s.responses := rfl
@[simp] theorem popRequest_freeSerial : s.popRequest.freeSerial = s.freeSerial := rfl

/-! ### addCircuit -/

@[simp] theorem addCircuit_tags (c : Circuit) : (s.addCircuit c).tags = s.tags := rfl
@[simp] theorem addCircuit_randomEnable (c : Circuit) : (s.addCircuit c).randomEnable = s.randomEnable := rfl
@[simp] theorem addCircuit_randomSource (c : Circuit) : (s.addCircuit c).randomSource = s.randomSource := rfl
@[simp] theorem addCircuit_circuits (c : Circuit) : (s.addCircuit c).circuits = s.circuits ++ [c] := rfl
@[simp] theorem addCircuit_phase (c : Circuit) : (s.addCircuit c).phase = s.phase := rfl
@[simp] theorem addCircuit_current (c : Circuit) : (s.addCircuit c).current = s.current := rfl
@[simp] theorem addCircuit_pc (c : Circuit) : (s.addCircuit c).pc = s.pc := rfl
@[simp] theorem addCircuit_n (c : Circuit) : (s.addCircuit c).n = s.n := rfl
@[simp] theorem addCircuit_b (c : Circuit) : (s.addCircuit c).b = s.b := rfl
@[simp] theorem addCircuit_notMask (c : Circuit) : (s.addCircuit c).notMask = s.notMask := rfl
@[simp] theorem addCircuit_traceAttached (c : Circuit) : (s.addCircuit c).traceAttached = s.traceAttached := rfl
@[simp] theorem addCircuit_sinkOpen (c : Circuit) : (s.addCircuit c).sinkOpen = s.sinkOpen := rfl
@[simp] theorem addCircuit_trace (c : Circuit) : (s.addCircuit c).trace = s.trace := rfl
@[simp] theorem addCircuit_partialRecord (c : Circuit) : (s.addCircuit c).partialRecord = s.partialRecord := rfl
@[simp] theorem addCircuit_sink (c : Circuit) : (s.addCircuit c).sink = s.sink := rfl
@[simp] theorem addCircuit_input (c : Circuit) : (s.addCircuit c).input = s.input := rfl
@[simp] theorem addCircuit_output (c : Circuit) : (s.addCircuit c).output = s.output := rfl
@[simp] theorem addCircuit_status (c : Circuit) : (s.addCircuit c).status = s.status := rfl
@[simp] theorem addCircuit_requests (c : Circuit) : (s.addCircuit c).requests = s.requests := rfl
@[simp] theorem addCircuit_responses (c : Circuit) : (s.addCircuit c).responses = s.responses := rfl
@[simp] theorem addCircuit_freeSerial (c : Circuit) : (s.addCircuit c).freeSerial = s.freeSerial + 1 := rfl

/-! ### accept -/

@[simp] theorem accept_tags (h : Nat) (inp : List Byte) (d : SinkDraws) : (s.accept h inp d).tags = s.tags := rfl
@[simp] theorem accept_randomEnable (h : Nat) (inp : List Byte) (d : SinkDraws) : (s.accept h inp d).randomEnable = s.randomEnable := rfl
@[simp] theorem accept_randomSource (h : Nat) (inp : List Byte) (d : SinkDraws) : (s.accept h inp d).randomSource = s.randomSource := rfl
@[simp] theorem accept_circuits (h : Nat) (inp : List Byte) (d : SinkDraws) : (s.accept h inp d).circuits = s.circuits := rfl
@[simp] theorem accept_phase (h : Nat) (inp : List Byte) (d : SinkDraws) : (s.accept h inp d).phase = s.phase := rfl
@[simp] theorem accept_current (h : Nat) (inp : List Byte) (d : SinkDraws) : (s.accept h inp d).current = h := rfl
@[simp] theorem accept_pc (h : Nat) (inp : List Byte) (d : SinkDraws) : (s.accept h inp d).pc = s.pc := rfl
@[simp] theorem accept_n (h : Nat) (inp : List Byte) (d : SinkDraws) : (s.accept h inp d).n = s.n := rfl
@[simp] theorem accept_b (h : Nat) (inp : List Byte) (d : SinkDraws) : (s.accept h inp d).b = s.b := rfl
@[simp] theorem accept_notMask (h : Nat) (inp : List Byte) (d : SinkDraws) : (s.accept h inp d).notMask = s.notMask := rfl
@[simp] theorem accept_traceAttached (h : Nat) (inp : List Byte) (d : SinkDraws) : (s.accept h inp d).traceAttached = s.traceAttached := rfl
@[simp] theorem accept_sinkOpen (h : Nat) (inp : List Byte) (d : SinkDraws) : (s.accept h inp d).sinkOpen = s.sinkOpen := rfl
@[simp] theorem accept_trace (h : Nat) (inp : List Byte) (d : SinkDraws) : (s.accept h inp d).trace = [] := rfl
@[simp] theorem accept_partialRecord (h : Nat) (inp : List Byte) (d : SinkDraws) : (s.accept h inp d).partialRecord = [] := rfl
@[simp] theorem accept_sink (h : Nat) (inp : List Byte) (d : SinkDraws) : (s.accept h inp d).sink = d := rfl
@[simp] theorem accept_input (h : Nat) (inp : List Byte) (d : SinkDraws) : (s.accept h inp d).input = inp := rfl
@[simp] theorem accept_output (h : Nat) (inp : List Byte) (d : SinkDraws) : (s.accept h inp d).output = s.output := rfl
@[simp] theorem accept_status (h : Nat) (inp : List Byte) (d : SinkDraws) : (s.accept h inp d).status = .ok := rfl
@[simp] theorem accept_requests (h : Nat) (inp : List Byte) (d : SinkDraws) : (s.accept h inp d).requests = s.requests := rfl
@[simp] theorem accept_responses (h : Nat) (inp : List Byte) (d : SinkDraws) : (s.accept h inp d).responses = s.responses := rfl
@[simp] theorem accept_freeSerial (h : Nat) (inp : List Byte) (d : SinkDraws) : (s.accept h inp d).freeSerial = s.freeSerial := rfl

/-! ### initialise -/

@[simp] theorem initialise_tags (b : Nat) (att : Bool) : (s.initialise b att).tags = s.tags := rfl
@[simp] theorem initialise_randomEnable (b : Nat) (att : Bool) : (s.initialise b att).randomEnable = s.randomEnable := rfl
@[simp] theorem initialise_randomSource (b : Nat) (att : Bool) : (s.initialise b att).randomSource = s.randomSource := rfl
@[simp] theorem initialise_circuits (b : Nat) (att : Bool) : (s.initialise b att).circuits = s.circuits.set s.current { s.circuit with ram := [] } := rfl
@[simp] theorem initialise_phase (b : Nat) (att : Bool) : (s.initialise b att).phase = .evaluating := rfl
@[simp] theorem initialise_current (b : Nat) (att : Bool) : (s.initialise b att).current = s.current := rfl
@[simp] theorem initialise_pc (b : Nat) (att : Bool) : (s.initialise b att).pc = 0 := rfl
@[simp] theorem initialise_n (b : Nat) (att : Bool) : (s.initialise b att).n = 0 := rfl
@[simp] theorem initialise_b (b : Nat) (att : Bool) : (s.initialise b att).b = b := rfl
@[simp] theorem initialise_notMask (b : Nat) (att : Bool) : (s.initialise b att).notMask = notMaskOf b := rfl
@[simp] theorem initialise_traceAttached (b : Nat) (att : Bool) : (s.initialise b att).traceAttached = att := rfl
@[simp] theorem initialise_sinkOpen (b : Nat) (att : Bool) : (s.initialise b att).sinkOpen = att := rfl
@[simp] theorem initialise_trace (b : Nat) (att : Bool) : (s.initialise b att).trace = [] := rfl
@[simp] theorem initialise_partialRecord (b : Nat) (att : Bool) : (s.initialise b att).partialRecord = s.partialRecord := rfl
@[simp] theorem initialise_sink (b : Nat) (att : Bool) : (s.initialise b att).sink = s.sink := rfl
@[simp] theorem initialise_input (b : Nat) (att : Bool) : (s.initialise b att).input = s.input := rfl
@[simp] theorem initialise_output (b : Nat) (att : Bool) : (s.initialise b att).output = s.output := rfl
@[simp] theorem initialise_status (b : Nat) (att : Bool) : (s.initialise b att).status = s.status := rfl
@[simp] theorem initialise_requests (b : Nat) (att : Bool) : (s.initialise b att).requests = s.requests := rfl
@[simp] theorem initialise_responses (b : Nat) (att : Bool) : (s.initialise b att).responses = s.responses := rfl
@[simp] theorem initialise_freeSerial (b : Nat) (att : Bool) : (s.initialise b att).freeSerial = s.freeSerial := rfl

/-! ### packInputs -/

@[simp] theorem packInputs_tags : s.packInputs.tags = s.tags := rfl
@[simp] theorem packInputs_randomEnable : s.packInputs.randomEnable = s.randomEnable := rfl
@[simp] theorem packInputs_randomSource : s.packInputs.randomSource = s.randomSource := rfl
@[simp] theorem packInputs_phase : s.packInputs.phase = s.phase := rfl
@[simp] theorem packInputs_current : s.packInputs.current = s.current := rfl
@[simp] theorem packInputs_pc : s.packInputs.pc = s.pc := rfl
@[simp] theorem packInputs_n : s.packInputs.n = s.n := rfl
@[simp] theorem packInputs_b : s.packInputs.b = s.b := rfl
@[simp] theorem packInputs_notMask : s.packInputs.notMask = s.notMask := rfl
@[simp] theorem packInputs_traceAttached : s.packInputs.traceAttached = s.traceAttached := rfl
@[simp] theorem packInputs_sinkOpen : s.packInputs.sinkOpen = s.sinkOpen := rfl
@[simp] theorem packInputs_trace : s.packInputs.trace = s.trace := rfl
@[simp] theorem packInputs_partialRecord : s.packInputs.partialRecord = s.partialRecord := rfl
@[simp] theorem packInputs_sink : s.packInputs.sink = s.sink := rfl
@[simp] theorem packInputs_input : s.packInputs.input = s.input := rfl
@[simp] theorem packInputs_output : s.packInputs.output = s.output := rfl
@[simp] theorem packInputs_status : s.packInputs.status = s.status := rfl
@[simp] theorem packInputs_requests : s.packInputs.requests = s.requests := rfl
@[simp] theorem packInputs_responses : s.packInputs.responses = s.responses := rfl
@[simp] theorem packInputs_freeSerial : s.packInputs.freeSerial = s.freeSerial := rfl

/-! ### complete -/

@[simp] theorem complete_tags : s.complete.tags = s.tags := rfl
@[simp] theorem complete_randomEnable : s.complete.randomEnable = s.randomEnable := rfl
@[simp] theorem complete_randomSource : s.complete.randomSource = s.randomSource := rfl
@[simp] theorem complete_circuits : s.complete.circuits = s.circuits := rfl
@[simp] theorem complete_phase : s.complete.phase = .idle := rfl
@[simp] theorem complete_current : s.complete.current = s.current := rfl
@[simp] theorem complete_pc : s.complete.pc = s.pc := rfl
@[simp] theorem complete_n : s.complete.n = s.n := rfl
@[simp] theorem complete_b : s.complete.b = s.b := rfl
@[simp] theorem complete_notMask : s.complete.notMask = s.notMask := rfl
@[simp] theorem complete_traceAttached : s.complete.traceAttached = s.traceAttached := rfl
@[simp] theorem complete_sinkOpen : s.complete.sinkOpen = false := rfl
@[simp] theorem complete_trace : s.complete.trace = s.trace := rfl
@[simp] theorem complete_partialRecord : s.complete.partialRecord = s.partialRecord := rfl
@[simp] theorem complete_sink : s.complete.sink = s.sink := rfl
@[simp] theorem complete_input : s.complete.input = s.input := rfl
@[simp] theorem complete_output : s.complete.output = unpackOutputs s.circuit s.b s.freeSerial := rfl
@[simp] theorem complete_status : s.complete.status = .ok := rfl
@[simp] theorem complete_requests : s.complete.requests = s.requests := rfl
@[simp] theorem complete_responses :
    s.complete.responses = s.responses ++ [.evaluated .ok (unpackOutputs s.circuit s.b s.freeSerial) s.trace s.partialRecord] := rfl
@[simp] theorem complete_freeSerial : s.complete.freeSerial = s.freeSerial + 1 := rfl

end Sys2Proof.Machine.State
end

