-- ==== Sys2Proof/Laws/Ops.lean ====
section
/-! SUPPORT. What the shared operations do to wires, and the one lemma for the end of an instruction. -/

namespace Sys2Proof.Machine

namespace State

variable (s : State)

/-! ## The current circuit under updates that do not touch it -/

@[simp] theorem abortBatch_circuit (batch : Nat) (e : TransactionError) : (s.abortBatch batch e).circuit = s.circuit := rfl
@[simp] theorem abort_circuit (e : TransactionError) : (s.abort e).circuit = s.circuit := rfl
@[simp] theorem advance_circuit (w : Nat) : (s.advance w).circuit = s.circuit := rfl
@[simp] theorem appendRecord_circuit (r : Word) : (s.appendRecord r).circuit = s.circuit := rfl
@[simp] theorem leavePartialRecord_circuit (r : Word) : (s.leavePartialRecord r).circuit = s.circuit := rfl
@[simp] theorem consumeDraw_circuit : s.consumeDraw.circuit = s.circuit := rfl
@[simp] theorem complete_circuit : s.complete.circuit = s.circuit := rfl

@[simp] theorem abortBatch_readWire (batch : Nat) (e : TransactionError) (a : Nat) :
    (s.abortBatch batch e).readWire a = s.readWire a := rfl
@[simp] theorem abort_readWire (e : TransactionError) (a : Nat) : (s.abort e).readWire a = s.readWire a := rfl
@[simp] theorem advance_readWire (w a : Nat) : (s.advance w).readWire a = s.readWire a := rfl
@[simp] theorem appendRecord_readWire (r : Word) (a : Nat) : (s.appendRecord r).readWire a = s.readWire a := rfl
@[simp] theorem leavePartialRecord_readWire (r : Word) (a : Nat) :
    (s.leavePartialRecord r).readWire a = s.readWire a := rfl
@[simp] theorem consumeDraw_readWire (a : Nat) : s.consumeDraw.readWire a = s.readWire a := rfl
@[simp] theorem complete_readWire (a : Nat) : s.complete.readWire a = s.readWire a := rfl
@[simp] theorem consumeDraw_memorySize : s.consumeDraw.memorySize = s.memorySize := rfl
@[simp] theorem consumeDraw_appendFails : s.consumeDraw.appendFails = s.appendFails := rfl

/-- R8: an aborted Evaluate's output has the bytes its batch and its circuit ask for. -/
@[simp] theorem unspecifiedOutput_length (batch : Nat) :
    (s.unspecifiedOutput batch).length = batch * bytesForBits s.circuit.header.outputSize.toNat := by
  simp [unspecifiedOutput]

variable {s}

/-- A handle with wires is a handle with a circuit. -/
theorem current_lt_of_lt_memorySize {a : Nat} (h : a < s.memorySize) : s.current < s.circuits.length := by
  by_contra hc
  have hn : s.circuit = Circuit.unloaded := by simp [circuit, List.getD, List.getElem?_eq_none (Nat.le_of_not_lt hc)]
  simp [memorySize, hn, Circuit.unloaded] at h

theorem circuit_eq_getElem (h : s.current < s.circuits.length) : s.circuit = s.circuits[s.current] := by
  simp [circuit, List.getD, h]

theorem circuit_mem (h : s.current < s.circuits.length) : s.circuit ∈ s.circuits :=
  circuit_eq_getElem h ▸ List.getElem_mem h

theorem circuit_of_getElem? {c : Circuit} (h : s.circuits[s.current]? = some c) : s.circuit = c := by
  simp [circuit, List.getD, h]

theorem circuit_setRam (m : Memory) (h : s.current < s.circuits.length) :
    (s.setRam m).circuit = { s.circuit with ram := m } := by
  simp [circuit, List.getD, setRam, h]

theorem setRam_of_not_lt (m : Memory) (h : ¬ s.current < s.circuits.length) : s.setRam m = s := by
  simp [setRam, List.set_eq_of_length_le (Nat.le_of_not_lt h)]

@[simp] theorem setRam_header (m : Memory) : (s.setRam m).circuit.header = s.circuit.header := by
  by_cases h : s.current < s.circuits.length
  · rw [circuit_setRam m h]
  · rw [setRam_of_not_lt m h]

@[simp] theorem setRam_memorySize (m : Memory) : (s.setRam m).memorySize = s.memorySize := by
  simp [memorySize]

@[simp] theorem writeWire_header (a : Nat) (v : Word) : (s.writeWire a v).circuit.header = s.circuit.header :=
  setRam_header _

theorem readWire_setRam (m : Memory) (h : s.current < s.circuits.length) (a : Nat) :
    (s.setRam m).readWire a = m.read a := by
  simp [readWire, circuit_setRam m h]

/-- A write of a wire, seen through reads: the word at its address, every other wire as before. -/
theorem readWire_writeWire (h : s.current < s.circuits.length) (a : Nat) (v : Word) (x : Nat) :
    (s.writeWire a v).readWire x = if x = a then v else s.readWire x := by
  rw [writeWire, readWire_setRam _ h, Memory.read_write, readWire]

theorem circuit_writeWire (h : s.current < s.circuits.length) (a : Nat) (v : Word) :
    (s.writeWire a v).circuit = { s.circuit with ram := s.circuit.ram.write a v } :=
  circuit_setRam _ h

/-- The wires of one circuit can be set twice: the second setting stands. -/
theorem set_getElem?_other {h : Nat} (hh : h ≠ s.current) (m : Memory) :
    (s.setRam m).circuits[h]? = s.circuits[h]? := by
  simp [setRam, List.getElem?_set_ne (Ne.symm hh)]

/-! ## The end of an instruction -/

/-- An instruction whose record is taken, or that has no record, completes. -/
theorem retire_of_taken (h : s.appendFails = false) (d : WireAddr) (r : Word) (w : Nat) :
    s.retire d r w = ((s.writeWire d.toNat r).appendRecord r).advance w := by
  simp [retire, h]

/-- An instruction whose record is not taken aborts after its write. -/
theorem retire_of_fails (h : s.appendFails = true) (d : WireAddr) (r : Word) (w : Nat) :
    s.retire d r w =
      ((s.writeWire d.toNat r).leavePartialRecord r).abort (.ioError (.append s.n)) := by
  simp [retire, h]

end State

@[simp] theorem littleEndianBytes_length (k v : Nat) : (littleEndianBytes k v).length = k := by
  induction k generalizing v with
  | zero => rfl
  | succ k ih => simp [littleEndianBytes, ih]

@[simp] theorem traceRecord_length (b : Nat) (r : Word) : (traceRecord b r).length = traceWidth b := by
  simp [traceRecord]

end Sys2Proof.Machine
end

