-- ==== Sys2Proof/Laws/Codec.lean ====
section
/-! SUPPORT. The codec bit by bit: the slot-to-bit map, the not-mask, input packing and output unpacking. -/

namespace Sys2Proof.Machine

/-! ## The slot-to-bit map -/

theorem ioBit_lt {j : Nat} (h : j < 64) : ioBit j < 64 := by
  unfold ioBit
  omega

theorem ioBit_ioBit (j : Nat) : ioBit (ioBit j) = j := by
  unfold ioBit
  omega

theorem ioBit_inj {j k : Nat} : ioBit j = ioBit k ↔ j = k :=
  ⟨fun h => by rw [← ioBit_ioBit j, h, ioBit_ioBit], congrArg ioBit⟩

/-! ## Lanes -/

theorem getLsbD_oneBit {n : Nat} (v : Bool) (k m : Nat) :
    (((BitVec.ofBool v).setWidth n) <<< k).getLsbD m = (decide (m < n) && decide (m = k) && v) := by
  rw [BitVec.getLsbD_shiftLeft]
  by_cases hm : m < n
  · by_cases h : m < k
    · simp [h, Nat.ne_of_lt h]
    · by_cases he : m = k
      · subst he
        have h0 : 0 < n := by omega
        simp [hm, h0]
      · have : m - k ≠ 0 := by omega
        simp [h, he, BitVec.getLsbD_ofBool, this]
  · simp [hm]

theorem getLsbD_lane (k m : Nat) : (1#64 <<< k).getLsbD m = (decide (m < 64) && decide (m = k)) := by
  have := getLsbD_oneBit (n := 64) true k m
  simpa using this

/-- Setting a lane: the bit in it, every other bit as before. -/
theorem getLsbD_setLane (w : Word) {k : Nat} (v : Bool) (hk : k < 64) (m : Nat) :
    (setLane w k v).getLsbD m = if m = k then v else w.getLsbD m := by
  simp only [setLane, BitVec.getLsbD_or, BitVec.getLsbD_and, BitVec.getLsbD_not, getLsbD_lane, getLsbD_oneBit]
  by_cases h : m = k
  · subst h
    simp [hk]
  · by_cases hm : m < 64
    · simp [h, hm]
    · simp [h, hm, BitVec.getLsbD_of_ge w m (by omega)]

/-- The not-mask has exactly the active bits set (R31). -/
theorem getLsbD_notMaskOf (b k : Nat) : (notMaskOf b).getLsbD k = (decide (k < 64) && decide (ioBit k < b)) := by
  unfold notMaskOf
  induction b with
  | zero => simp
  | succ b ih =>
    rw [List.range_succ, List.foldl_append, List.foldl_cons, List.foldl_nil, BitVec.getLsbD_or, ih, getLsbD_lane]
    have hkb : k = ioBit b ↔ ioBit k = b := ⟨fun h => by rw [h, ioBit_ioBit], fun h => by rw [← h, ioBit_ioBit]⟩
    have hlt : ioBit k < b + 1 ↔ ioBit k < b ∨ ioBit k = b := by omega
    simp only [hkb, hlt, Bool.decide_or]
    cases decide (k < 64) <;> simp

/-! ## Input packing -/

/-- What packing one input bit makes of a word: the instances' bits in their lanes, every other bit as before. -/
theorem getLsbD_packWire (input : List Byte) (inB : Nat) {b : Nat} (hb : b ≤ 64) (i : Nat) (w : Word) (m : Nat) :
    (packWire input inB b i w).getLsbD m =
      if m < 64 ∧ ioBit m < b then bufferBit input (ioBit m * inB) i else w.getLsbD m := by
  unfold packWire
  induction b with
  | zero => simp
  | succ b ih =>
    rw [List.range_succ, List.foldl_append, List.foldl_cons, List.foldl_nil,
      getLsbD_setLane _ _ (ioBit_lt (by omega)), ih (by omega)]
    by_cases h : m = ioBit b
    · subst h
      simp [ioBit_ioBit, ioBit_lt (show b < 64 by omega)]
    · have h1 : ioBit m ≠ b := fun hh => h (by rw [← hh, ioBit_ioBit])
      have h2 : ioBit m < b + 1 ↔ ioBit m < b := by omega
      simp [h, h2]

/-- A wire no table entry names keeps its word. -/
theorem read_packWires_other (input : List Byte) (inB b : Nat) (i : Nat) (addrs : List WireAddr) (m : Memory) {x : Nat}
    (h : ∀ a ∈ addrs, a.toNat ≠ x) : (packWires input inB b i addrs m).read x = m.read x := by
  induction addrs generalizing i m with
  | nil => rfl
  | cons a addrs ih =>
    rw [packWires, ih _ _ fun a' ha' => h a' (by simp [ha']), Memory.read_write_other _ _ (Ne.symm (h a (by simp)))]

/-- A wire the table names once gets its input bit's word. -/
theorem read_packWires (input : List Byte) (inB b : Nat) (i : Nat) (addrs : List WireAddr) (m : Memory)
    (hnd : addrs.Nodup) {k : Nat} {a : WireAddr} (hk : addrs[k]? = some a) :
    (packWires input inB b i addrs m).read a.toNat = packWire input inB b (i + k) (m.read a.toNat) := by
  induction addrs generalizing i k m with
  | nil => simp at hk
  | cons c addrs ih =>
    obtain ⟨hc, hnd⟩ := List.nodup_cons.1 hnd
    cases k with
    | zero =>
      obtain rfl : c = a := by simpa using hk
      rw [packWires, read_packWires_other _ _ _ _ _ _ fun a' ha' he => hc ((BitVec.toNat_inj.1 he : a' = c) ▸ ha')]
      simp
    | succ k =>
      have hk' : addrs[k]? = some a := by simpa using hk
      have hne : a.toNat ≠ c.toNat := fun he => hc ((BitVec.toNat_inj.1 he : a = c) ▸ List.mem_of_getElem? hk')
      rw [packWires, ih _ _ hnd hk', Memory.read_write_other _ _ hne]
      congr 1
      omega

/-- Packing keeps the canonical form and lists wires of the circuit only. -/
theorem packWires_wf (input : List Byte) (inB b : Nat) (i : Nat) (addrs : List WireAddr) {m : Memory} {size : Nat}
    (ha : ∀ a ∈ addrs, a.toNat < size) (hm : m.wf) (hs : ∀ c ∈ m, c.1 < size) :
    (packWires input inB b i addrs m).wf ∧ ∀ c ∈ packWires input inB b i addrs m, c.1 < size := by
  induction addrs generalizing i m with
  | nil => exact ⟨hm, hs⟩
  | cons a addrs ih =>
    exact ih _ (fun a' ha' => ha a' (by simp [ha'])) (Memory.write_wf hm _ _) (Memory.write_below _ hs (ha a (by simp)))

/-! ## Output unpacking -/

theorem getLsbD_byteOfBits (f : Nat → Bool) (p : Nat) : (byteOfBits f).getLsbD p = (decide (p < 8) && f p) := by
  simp only [byteOfBits, List.range, List.range.loop, List.foldl_cons, List.foldl_nil, BitVec.getLsbD_or, getLsbD_oneBit]
  by_cases hp : p < 8
  · have : p = 0 ∨ p = 1 ∨ p = 2 ∨ p = 3 ∨ p = 4 ∨ p = 5 ∨ p = 6 ∨ p = 7 := by omega
    rcases this with rfl | rfl | rfl | rfl | rfl | rfl | rfl | rfl <;> simp
  · simp [hp]

@[simp] theorem unpackOutputs_length (c : Circuit) (b serial : Nat) :
    (unpackOutputs c b serial).length = b * bytesForBits c.header.outputSize.toNat := by
  simp [unpackOutputs]

/-- Output bit i of instance j is the instance's lane of the wire the table names (R121). -/
theorem bufferBit_unpackOutputs (c : Circuit) (serial : Nat) {b i j : Nat} (hj : j < b)
    (hi : i < c.header.outputSize.toNat) :
    bufferBit (unpackOutputs c b serial) (j * bytesForBits c.header.outputSize.toNat) i = outputBit c i j := by
  have hq : i / 8 < bytesForBits c.header.outputSize.toNat := by
    unfold bytesForBits
    omega
  have hlt : j * bytesForBits c.header.outputSize.toNat + i / 8 < b * bytesForBits c.header.outputSize.toNat :=
    Nat.lt_of_lt_of_le (Nat.add_lt_add_left hq _) (by rw [← Nat.succ_mul]; exact Nat.mul_le_mul_right _ hj)
  have hdiv : (j * bytesForBits c.header.outputSize.toNat + i / 8) / bytesForBits c.header.outputSize.toNat = j := by
    rw [Nat.add_comm, Nat.add_mul_div_right _ _ (by omega), Nat.div_eq_of_lt hq, Nat.zero_add]
  have hmod : (j * bytesForBits c.header.outputSize.toNat + i / 8) % bytesForBits c.header.outputSize.toNat = i / 8 := by
    rw [Nat.add_comm, Nat.add_mul_mod_self_right, Nat.mod_eq_of_lt hq]
  have hbit : 8 * (i / 8) + (7 - (7 - i % 8)) = i := by omega
  have hp : 7 - i % 8 < 8 := by omega
  simp only [bufferBit, unpackOutputs, List.getD_eq_getElem?_getD, List.getElem?_map, List.getElem?_range hlt,
    Option.map_some, Option.getD_some, outputByte, getLsbD_byteOfBits, hdiv, hmod, hbit, hi, hp, if_true, decide_true,
    Bool.true_and]

end Sys2Proof.Machine
end

