-- ==== Sys2Proof/Laws/Encoding.lean ====
section
/-! SUPPORT. The laws of the encoding's parts: tags, address fields and lengths. -/

namespace Sys2Proof

theorem TagMap.tag_mem (T : TagMap) (op : Op) : T.tag op ∈ T.tags := by
  cases op <;> simp [TagMap.tag, TagMap.tags]

/-- A byte selects an operation exactly when it is that operation's tag. -/
theorem TagMap.opOf_eq_some {T : TagMap} (h : T.wf) {t : Byte} {op : Op} : T.opOf t = some op ↔ t = T.tag op := by
  simp only [TagMap.wf, TagMap.tags, List.nodup_cons, List.mem_cons, List.not_mem_nil, or_false, not_or] at h
  obtain ⟨⟨h1, h2, h3, h4⟩, ⟨h5, h6, h7⟩, ⟨h8, h9⟩, h10, -⟩ := h
  constructor
  · intro he
    unfold TagMap.opOf at he
    split_ifs at he <;> (obtain rfl := Option.some.inj he; assumption)
  · rintro rfl
    cases op <;> simp [TagMap.opOf, TagMap.tag, Ne.symm, *, eq_comm]

/-- A byte selects no operation exactly when it is no tag. -/
theorem TagMap.opOf_eq_none {T : TagMap} {t : Byte} : T.opOf t = none ↔ t ∉ T.tags := by
  unfold TagMap.opOf TagMap.tags
  split_ifs <;> simp_all

@[simp] theorem addrOfBytes_low_high (a : WireAddr) : addrOfBytes (lowByte a) (highByte a) = a := by
  apply BitVec.eq_of_getLsbD_eq
  intro i hi
  simp only [addrOfBytes, lowByte, highByte, BitVec.getLsbD_append, BitVec.getLsbD_extractLsb']
  by_cases h : i < 8
  · simp [h]
  · have : 8 + (i - 8) = i := by omega
    have hlt : i - 8 < 8 := by omega
    simp [h, this, hlt]

@[simp] theorem lowByte_addrOfBytes (lo hi : Byte) : lowByte (addrOfBytes lo hi) = lo := by
  apply BitVec.eq_of_getLsbD_eq
  intro i hi
  simp only [addrOfBytes, lowByte, BitVec.getLsbD_append, BitVec.getLsbD_extractLsb']
  simp [hi]

@[simp] theorem highByte_addrOfBytes (lo hi : Byte) : highByte (addrOfBytes lo hi) = hi := by
  apply BitVec.eq_of_getLsbD_eq
  intro i hi
  simp only [addrOfBytes, highByte, BitVec.getLsbD_append, BitVec.getLsbD_extractLsb']
  simp [hi]

/-- An address field is its bytes' unsigned little-endian value (R68). -/
theorem addrOfBytes_toNat (lo hi : Byte) : (addrOfBytes lo hi).toNat = lo.toNat + 256 * hi.toNat := by
  have hlt := lo.isLt
  simp only [addrOfBytes, BitVec.toNat_append, Nat.shiftLeft_eq]
  rw [Nat.mul_comm hi.toNat, ← Nat.two_pow_add_eq_or_of_lt hlt]
  omega

/-- The unsigned value of k bytes is below 256 to the k. -/
theorem littleEndian_lt (l : List Byte) : littleEndian l < 256 ^ l.length := by
  induction l with
  | nil => simp [littleEndian]
  | cons x l ih =>
    have := x.isLt
    simp only [littleEndian, List.length_cons, Nat.pow_succ]
    omega

/-- A decode that gives an instruction has read its tag and its width in bytes. -/
theorem decode_ok_length {T : TagMap} {bytes rest : List Byte} {i : Instr} (h : decode T bytes = .ok i rest) :
    bytes.length = i.width + rest.length := by
  unfold decode at h
  split at h
  · cases h
  · split at h
    · cases h
    · rename_i t fields _ op hop
      cases op <;> simp only [decodeFields, decodeB.eq_def, decodeU.eq_def, decodeZ.eq_def] at h <;> split at h <;>
        cases h <;> simp [Instr.width, Instr.op, Op.width, Op.format, Format.width] <;> omega

end Sys2Proof
end

