-- ==== Sys2Proof/Laws/Operands.lean ====
section
/-! SUPPORT. What the operand check does. -/

namespace Sys2Proof.Machine

theorem firstOutOfRange_eq_none {memory : Nat} {l : List WireAddr} :
    firstOutOfRange memory l = none ↔ ∀ a ∈ l, a.toNat < memory := by
  induction l with
  | nil => simp [firstOutOfRange]
  | cons a l ih =>
    by_cases h : a.toNat < memory
    · simp [firstOutOfRange, h, ih]
    · simp only [firstOutOfRange, h, if_false, reduceCtorEq, List.mem_cons, forall_eq_or_imp, false_and]

/-- The entry found is out of range, and every entry before it is in range. -/
theorem firstOutOfRange_eq_some {memory : Nat} {l : List WireAddr} {i : Nat} {a : WireAddr} :
    firstOutOfRange memory l = some (i, a) ↔
      l[i]? = some a ∧ memory ≤ a.toNat ∧ ∀ (k : Nat) (x : WireAddr), k < i → l[k]? = some x → x.toNat < memory := by
  induction l generalizing i with
  | nil => simp [firstOutOfRange]
  | cons b l ih =>
    by_cases h : b.toNat < memory
    · cases i with
      | zero =>
        simp only [firstOutOfRange, h, if_true, List.getElem?_cons_zero, Option.some.injEq, Option.map_eq_some_iff,
          Prod.mk.injEq, Nat.add_eq_zero_iff, one_ne_zero, and_false, false_and, exists_false, false_iff]
        rintro ⟨rfl, hm, -⟩
        omega
      | succ i =>
        have : firstOutOfRange memory (b :: l) = some (i + 1, a) ↔ firstOutOfRange memory l = some (i, a) := by
          simp only [firstOutOfRange, h, if_true, Option.map_eq_some_iff, Prod.mk.injEq, Nat.add_right_cancel_iff]
          constructor
          · rintro ⟨⟨j, x⟩, hx, rfl, rfl⟩
            exact hx
          · exact fun hx => ⟨(i, a), hx, rfl, rfl⟩
        rw [this, ih]
        simp only [List.getElem?_cons_succ]
        refine and_congr_right fun _ => and_congr_right fun _ => ⟨fun hk k x hlt hx => ?_, fun hk k x hlt hx => ?_⟩
        · cases k with
          | zero => simp only [List.getElem?_cons_zero, Option.some.injEq] at hx; exact hx ▸ h
          | succ k => exact hk k x (by omega) (by simpa using hx)
        · exact hk (k + 1) x (by omega) (by simpa using hx)
    · cases i with
      | zero =>
        simp only [firstOutOfRange, h, if_false, List.getElem?_cons_zero, Option.some.injEq, Prod.mk.injEq, true_and,
          Nat.not_lt_zero, false_implies, implies_true, and_true]
        exact ⟨fun e => ⟨e, e ▸ Nat.le_of_not_lt h⟩, fun e => e.1⟩
      | succ i =>
        simp only [firstOutOfRange, h, if_false, Option.some.injEq, Prod.mk.injEq, Nat.right_eq_add, List.getElem?_cons_succ]
        constructor
        · rintro ⟨hf, -⟩
          omega
        · rintro ⟨-, -, hk⟩
          exact absurd (hk 0 b (by omega) (by simp)) h

/-- The operand check either aborts with the first operand that names no wire, or lets the instruction run. -/
theorem withOperands_cases (operands : List WireAddr) (s run : State) :
    (∃ i x, operands[i]? = some x ∧ s.memorySize ≤ x.toNat ∧
      (∀ (k : Nat) (y : WireAddr), k < i → operands[k]? = some y → y.toNat < s.memorySize) ∧
      withOperands operands s run = .next (s.abort (.operandAddressOutOfRange s.n s.pc x))) ∨
    ((∀ a ∈ operands, a.toNat < s.memorySize) ∧ withOperands operands s run = .next run) := by
  unfold withOperands
  cases h : firstOutOfRange s.memorySize operands with
  | none => exact .inr ⟨firstOutOfRange_eq_none.1 h, rfl⟩
  | some p =>
    obtain ⟨h1, h2, h3⟩ := firstOutOfRange_eq_some.1 h
    exact .inl ⟨p.1, p.2, h1, h2, h3, rfl⟩

theorem withOperands_of_inRange {operands : List WireAddr} {s : State} (h : ∀ a ∈ operands, a.toNat < s.memorySize)
    (run : State) : withOperands operands s run = .next run := by
  simp [withOperands, firstOutOfRange_eq_none.2 h]

end Sys2Proof.Machine
end

