-- ==== Sys2Proof/Laws/Evaluate.lean ====
section
/-! SUPPORT. What the checks of an Evaluate accept, and the wires it starts with. -/

namespace Sys2Proof.Machine

/-- No duplicate is found exactly when there is none. -/
theorem firstDuplicate_eq_none {seen l : List WireAddr} (hs : seen.Nodup) :
    firstDuplicate seen l = none ↔ (seen ++ l).Nodup := by
  induction l generalizing seen with
  | nil => simp [firstDuplicate, hs]
  | cons a l ih =>
    unfold firstDuplicate
    cases hf : seen.findIdx? (· == a) with
    | some i =>
      obtain ⟨hi, heq, -⟩ := List.findIdx?_eq_some_iff_getElem.1 hf
      have hmem : a ∈ seen := by
        have : seen[i] = a := by simpa using heq
        exact this ▸ List.getElem_mem hi
      simp only [reduceCtorEq, List.nodup_append, List.mem_cons, false_iff, not_and]
      exact fun _ _ hne => hne a hmem a (.inl rfl) rfl
    | none =>
      have hna : a ∉ seen := fun hm => by
        have := List.findIdx?_eq_none_iff.1 hf a hm
        simp at this
      have hs' : (seen ++ [a]).Nodup := by
        simp only [List.nodup_append, List.nodup_cons, List.not_mem_nil, not_false_eq_true, List.nodup_nil, and_self,
          List.mem_singleton, forall_eq, true_and, hs]
        exact fun b hb he => hna (he ▸ hb)
      simp only [ih hs', List.append_assoc, List.singleton_append]

/-- The table check passes exactly when the tables are good. -/
theorem tableError_eq_none {c : Circuit} : tableError c = none ↔ c.tablesOk := by
  unfold tableError
  split
  · rename_i p h1
    have : ¬ ∀ a ∈ c.inputAddr, a.toNat < c.header.memory.toNat := fun hall => by
      simp [firstOutOfRange_eq_none.2 hall] at h1
    simp [this]
  · rename_i h1
    split
    · rename_i p h2
      have : ¬ ∀ a ∈ c.outputAddr, a.toNat < c.header.memory.toNat := fun hall => by
        simp [firstOutOfRange_eq_none.2 hall] at h2
      simp [this]
    · rename_i h2
      have hd := firstDuplicate_eq_none (seen := []) (l := c.inputAddr) List.nodup_nil
      rw [List.nil_append] at hd
      rw [Option.map_eq_none_iff, hd]
      exact ⟨fun hn => ⟨firstOutOfRange_eq_none.1 h1, firstOutOfRange_eq_none.1 h2, hn⟩, fun ht => ht.2.2⟩

/-- The checks pass exactly when the batch is legal, the input has its length and the tables are good. -/
theorem evaluateError_eq_none {c : Circuit} {input : List Byte} {batch : Int} :
    evaluateError c input batch = none ↔
      legalBatch batch ∧ input.length = batch.toNat * bytesForBits c.header.inputSize.toNat ∧ c.tablesOk := by
  unfold evaluateError
  by_cases hb : legalBatch batch
  · by_cases hl : input.length = batch.toNat * bytesForBits c.header.inputSize.toNat
    · rw [if_neg (not_not.2 hb), if_neg (not_not.2 hl), tableError_eq_none]
      exact ⟨fun ht => ⟨hb, hl, ht⟩, fun h => h.2.2⟩
    · rw [if_neg (not_not.2 hb), if_pos hl]
      exact ⟨fun h => by simp at h, fun h => absurd h.2.1 hl⟩
  · rw [if_pos hb]
    exact ⟨fun h => by simp at h, fun h => absurd h.1 hb⟩

/-- A circuit with its wires as an accepted Evaluate starts with them. -/
def Circuit.packed (c : Circuit) (input : List Byte) (b : Nat) : Circuit :=
  { c with ram := packWires input (bytesForBits c.header.inputSize.toNat) b 0 c.inputAddr [] }

/-- What an accepted Evaluate starts with: every wire 0 but the input wires, which hold their input bits. -/
theorem started_eq {s : State} {h : Nat} {c : Circuit} {input : List Byte} {batch : Int} {attached : Bool}
    {draws : SinkDraws} (hc : s.circuits[h]? = some c) (ha : c.Accepts input batch attached draws) :
    s.startEvaluate h input batch attached draws =
      { s with
        circuits := s.circuits.set h (c.packed input batch.toNat)
        current := h, status := .ok, partialRecord := [], sink := draws, input := input
        phase := .evaluating, pc := 0, n := 0, b := batch.toNat, notMask := notMaskOf batch.toNat
        traceAttached := attached, sinkOpen := attached, trace := [] } := by
  obtain ⟨h1, h2, h3, h4⟩ := ha
  obtain ⟨hlt, -⟩ := List.getElem?_eq_some_iff.1 hc
  have hcirc : (s.accept h input draws).circuit = c := State.circuit_of_getElem? hc
  have herr : evaluateError c input batch = none := evaluateError_eq_none.2 ⟨h1, h2, h3⟩
  have hcur : (s.accept h input draws).current < (s.accept h input draws).circuits.length := hlt
  have hinit : ((s.accept h input draws).initialise batch.toNat attached).circuit = { c with ram := [] } := by
    have := State.circuit_setRam (s := s.accept h input draws) [] hcur
    rw [hcirc] at this
    exact this
  simp only [State.startEvaluate, hcirc, herr, h4, Bool.false_eq_true, if_false, State.packInputs, hinit]
  simp [State.setRam, State.initialise, State.accept, State.circuit, List.getD, hlt,
    (List.getElem?_eq_some_iff.1 hc).2, Circuit.packed]

end Sys2Proof.Machine
end

