-- ==== Sys2Proof/Laws/Gates.lean ====
section
/-! SUPPORT. The five meanings as one: their result words, and everything an instruction can do. -/

namespace Sys2Proof

open Machine

/-- The result word of an instruction, from the state before it. -/
def Instr.result (s : State) : Instr → Word
  | .xor _ s1 s2 => s.readWire s1.toNat ^^^ s.readWire s2.toNat
  | .and _ s1 s2 => s.readWire s1.toNat &&& s.readWire s2.toNat
  | .or _ s1 s2 => s.readWire s1.toNat ||| s.readWire s2.toNat
  | .not _ s1 => s.notMask ^^^ s.readWire s1.toNat
  | .random _ => s.randomResult

/-- The state whose random source an instruction has drawn from. -/
def Instr.drawFrom (s : State) : Instr → State
  | .xor _ _ _ => s
  | .and _ _ _ => s
  | .or _ _ _ => s
  | .not _ _ => s
  | .random _ => s.consumeDraw

namespace Machine

/-- Drawing changes the random source only. -/
theorem drawFrom_eq (i : Instr) (s : State) :
    i.drawFrom s = { s with randomSource := (i.drawFrom s).randomSource } := by
  cases i <;> rfl

/-- The five meanings are one operation on their operands, destination, result word and width. -/
theorem exec_eq (i : Instr) (s : State) :
    exec i s = withOperands i.operands s ((i.drawFrom s).retire i.dest (i.result s) i.width) := by
  cases i <;> rfl

theorem dest_mem_operands (i : Instr) : i.dest ∈ i.operands := by
  cases i <;> simp [Instr.dest, Instr.operands]

theorem current_lt_of_wf {i : Instr} {s : State} (h : i.wf s.memorySize) : s.current < s.circuits.length :=
  State.current_lt_of_lt_memorySize (h _ (dest_mem_operands i))

@[simp] theorem drawFrom_appendFails (i : Instr) (s : State) : (i.drawFrom s).appendFails = s.appendFails := by
  cases i <;> rfl

@[simp] theorem drawFrom_tags (i : Instr) (s : State) : (i.drawFrom s).tags = s.tags := by cases i <;> rfl
@[simp] theorem drawFrom_randomEnable (i : Instr) (s : State) : (i.drawFrom s).randomEnable = s.randomEnable := by cases i <;> rfl
@[simp] theorem drawFrom_circuits (i : Instr) (s : State) : (i.drawFrom s).circuits = s.circuits := by cases i <;> rfl
@[simp] theorem drawFrom_phase (i : Instr) (s : State) : (i.drawFrom s).phase = s.phase := by cases i <;> rfl
@[simp] theorem drawFrom_current (i : Instr) (s : State) : (i.drawFrom s).current = s.current := by cases i <;> rfl
@[simp] theorem drawFrom_pc (i : Instr) (s : State) : (i.drawFrom s).pc = s.pc := by cases i <;> rfl
@[simp] theorem drawFrom_n (i : Instr) (s : State) : (i.drawFrom s).n = s.n := by cases i <;> rfl
@[simp] theorem drawFrom_b (i : Instr) (s : State) : (i.drawFrom s).b = s.b := by cases i <;> rfl
@[simp] theorem drawFrom_notMask (i : Instr) (s : State) : (i.drawFrom s).notMask = s.notMask := by cases i <;> rfl
@[simp] theorem drawFrom_traceAttached (i : Instr) (s : State) : (i.drawFrom s).traceAttached = s.traceAttached := by cases i <;> rfl
@[simp] theorem drawFrom_sinkOpen (i : Instr) (s : State) : (i.drawFrom s).sinkOpen = s.sinkOpen := by cases i <;> rfl
@[simp] theorem drawFrom_trace (i : Instr) (s : State) : (i.drawFrom s).trace = s.trace := by cases i <;> rfl
@[simp] theorem drawFrom_partialRecord (i : Instr) (s : State) : (i.drawFrom s).partialRecord = s.partialRecord := by cases i <;> rfl
@[simp] theorem drawFrom_sink (i : Instr) (s : State) : (i.drawFrom s).sink = s.sink := by cases i <;> rfl
@[simp] theorem drawFrom_input (i : Instr) (s : State) : (i.drawFrom s).input = s.input := by cases i <;> rfl
@[simp] theorem drawFrom_output (i : Instr) (s : State) : (i.drawFrom s).output = s.output := by cases i <;> rfl
@[simp] theorem drawFrom_status (i : Instr) (s : State) : (i.drawFrom s).status = s.status := by cases i <;> rfl
@[simp] theorem drawFrom_requests (i : Instr) (s : State) : (i.drawFrom s).requests = s.requests := by cases i <;> rfl
@[simp] theorem drawFrom_responses (i : Instr) (s : State) : (i.drawFrom s).responses = s.responses := by cases i <;> rfl
@[simp] theorem drawFrom_freeSerial (i : Instr) (s : State) : (i.drawFrom s).freeSerial = s.freeSerial := by cases i <;> rfl
@[simp] theorem drawFrom_circuit (i : Instr) (s : State) : (i.drawFrom s).circuit = s.circuit := by cases i <;> rfl
@[simp] theorem drawFrom_readWire (i : Instr) (s : State) (a : Nat) : (i.drawFrom s).readWire a = s.readWire a := by
  cases i <;> rfl

/-- Everything an instruction can do: abort on an operand that names no wire, complete, or abort after its write because
its trace record was not taken. -/
theorem exec_cases (i : Instr) (s : State) :
    (∃ x ∈ i.operands, s.memorySize ≤ x.toNat ∧
      exec i s = .next (s.abort (.operandAddressOutOfRange s.n s.pc x))) ∨
    (s.Runs i ∧ exec i s =
      .next ((((i.drawFrom s).writeWire i.dest.toNat (i.result s)).appendRecord (i.result s)).advance i.width)) ∨
    (i.wf s.memorySize ∧ s.appendFails = true ∧ exec i s =
      .next ((((i.drawFrom s).writeWire i.dest.toNat (i.result s)).leavePartialRecord (i.result s)).abort
        (.ioError (.append s.n)))) := by
  rw [exec_eq]
  rcases withOperands_cases i.operands s ((i.drawFrom s).retire i.dest (i.result s) i.width) with
    ⟨k, x, hx, hm, -, he⟩ | ⟨hw, he⟩
  · exact .inl ⟨x, List.mem_of_getElem? hx, hm, he⟩
  · cases ha : s.appendFails with
    | false => exact .inr (.inl ⟨⟨hw, ha⟩, by rw [he, State.retire_of_taken (by simpa using ha)]⟩)
    | true => exact .inr (.inr ⟨hw, rfl, by rw [he, State.retire_of_fails (by simpa using ha), drawFrom_n]⟩)

/-- An instruction that runs completes. -/
theorem exec_of_runs {i : Instr} {s : State} (h : s.Runs i) :
    exec i s = .next ((((i.drawFrom s).writeWire i.dest.toNat (i.result s)).appendRecord (i.result s)).advance i.width) := by
  rw [exec_eq, withOperands_of_inRange h.1, State.retire_of_taken (by simpa using h.2)]

/-- No instruction stops the machine. -/
theorem exec_next (i : Instr) (s : State) : ∃ t, exec i s = .next t := by
  rcases exec_cases i s with ⟨x, -, -, h⟩ | ⟨-, h⟩ | ⟨-, -, h⟩ <;> exact ⟨_, h⟩

end Machine

end Sys2Proof
end

