-- ==== Sys2Proof/Laws/Loader.lean ====
section
/-! SUPPORT. What a Load reads from its file, and that the circuit it makes is well formed. -/

namespace Sys2Proof.Machine

theorem fileRead_lt (file : List Byte) (off n : Nat) : fileRead file off n < 256 ^ n :=
  Nat.lt_of_lt_of_le (littleEndian_lt _) (Nat.pow_le_pow_right (by omega) (by simp))

/-- A header field is the value of its four bytes (R62). -/
@[simp] theorem headerField_toNat (file : List Byte) (off : Nat) : (headerField file off).toNat = fileRead file off 4 := by
  have := fileRead_lt file off 4
  simp only [headerField, BitVec.toNat_ofNat]
  omega

/-- The entries of a table are the values of their two bytes (R63, R69). -/
theorem parseTable_toNat (file : List Byte) (off size : Nat) :
    (parseTable file off size).map BitVec.toNat = (List.range size).map fun i => fileRead file (off + 2 * i) 2 := by
  simp only [parseTable, List.map_map]
  refine List.map_congr_left fun i _ => ?_
  have := fileRead_lt file (off + 2 * i) 2
  simp only [Function.comp, BitVec.toNat_ofNat]
  omega

@[simp] theorem parseTable_length (file : List Byte) (off size : Nat) : (parseTable file off size).length = size := by
  simp [parseTable]

/-- A Load that reports no error has a file that reaches its end. -/
theorem fileEnd_le_of_loadError {file : List Byte} {draws : AllocDraws} (h : loadError file draws = none) :
    (parseHeader file).fileEnd ≤ file.length := by
  unfold loadError at h
  simp only at h
  split_ifs at h
  omega

/-- A loaded circuit is as long as its header says and its wires are canonical. -/
theorem parseCircuit_wf {file : List Byte} {draws : AllocDraws} (serial : Nat) (h : loadError file draws = none) :
    (parseCircuit file serial).wf := by
  have hend := fileEnd_le_of_loadError h
  obtain ⟨h1, h2⟩ := Memory.ofCells_wf (parseHeader file).memory.toNat (Config.staleRam serial)
  refine ⟨by simp [parseCircuit], by simp [parseCircuit], ?_, h1, h2⟩
  simp only [parseCircuit, List.length_take, List.length_drop]
  unfold Header.fileEnd at hend
  omega

end Sys2Proof.Machine
end

