-- ==== Sys2Proof/Laws/PerInstr.lean ====
section
/-! SUPPORT. What holds of every instruction, one lemma for each: its encoding is as long as R70 says. -/

namespace Sys2Proof.Laws.EncodedLength

/-- The encoding of an instruction has the width of its tag (R70). -/
def Statement (i : Instr) : Prop := ∀ T : TagMap, (encode T i).length = i.width

theorem xor (d s1 s2 : WireAddr) : Statement (.xor d s1 s2) := fun _ => rfl

theorem and (d s1 s2 : WireAddr) : Statement (.and d s1 s2) := fun _ => rfl

theorem or (d s1 s2 : WireAddr) : Statement (.or d s1 s2) := fun _ => rfl

theorem not (d s1 : WireAddr) : Statement (.not d s1) := fun _ => rfl

theorem random (d : WireAddr) : Statement (.random d) := fun _ => rfl

end Sys2Proof.Laws.EncodedLength
end

