-- ==== Sys2Proof/Laws/Step.lean ====
section
/-! SUPPORT. Everything a step can do, once. -/

namespace Sys2Proof.Machine

/-- What a step that answers a next state has done. -/
inductive StepCase (s : State) : State → Prop where
  /-- Idle, and the host asks for nothing. -/
  | wait (hp : s.phase = .idle) (hr : s.requests = []) : StepCase s s
  | load (file : List Byte) (draws : AllocDraws) (rest : List Request) (hp : s.phase = .idle)
      (hr : s.requests = .load file draws :: rest) : StepCase s (s.popRequest.load file draws)
  | setRandomEnable (flag : Bool) (rest : List Request) (hp : s.phase = .idle)
      (hr : s.requests = .setRandomEnable flag :: rest) : StepCase s (s.popRequest.setRandomEnable flag)
  | reseed (rest : List Request) (hp : s.phase = .idle) (hr : s.requests = .reseed :: rest) :
      StepCase s s.popRequest.reseed
  /-- An Evaluate whose checks fail or whose sink does not open. -/
  | rejected (h : Nat) (c : Circuit) (input : List Byte) (batch : Int) (attached : Bool) (draws : SinkDraws)
      (rest : List Request) (e : TransactionError) (hp : s.phase = .idle)
      (hr : s.requests = .evaluate h input batch attached draws :: rest) (hc : s.circuits[h]? = some c)
      (he : evaluateError c input batch = some e ∨ e = .ioError .opening) :
      StepCase s ((s.popRequest.accept h input draws).abortBatch batch.toNat e)
  /-- An Evaluate that starts. -/
  | started (h : Nat) (c : Circuit) (input : List Byte) (batch : Int) (attached : Bool) (draws : SinkDraws)
      (rest : List Request) (hp : s.phase = .idle) (hr : s.requests = .evaluate h input batch attached draws :: rest)
      (hc : s.circuits[h]? = some c) (ha : c.Accepts input batch attached draws) :
      StepCase s (s.popRequest.startEvaluate h input batch attached draws)
  /-- An instruction names no wire with one of its operands. -/
  | badOperand (i : Instr) (rest : List Byte) (x : WireAddr) (hp : s.Evaluating) (hm : s.moreInstructions = true)
      (hf : s.fetch = .ok i rest) (hx : x ∈ i.operands) (ho : s.memorySize ≤ x.toNat) :
      StepCase s (s.abort (.operandAddressOutOfRange s.n s.pc x))
  /-- An instruction completes. -/
  | completes (i : Instr) (rest : List Byte) (hp : s.Evaluating) (hm : s.moreInstructions = true)
      (hf : s.fetch = .ok i rest) (hi : s.Runs i) :
      StepCase s ((((i.drawFrom s).writeWire i.dest.toNat (i.result s)).appendRecord (i.result s)).advance i.width)
  /-- An instruction's trace record is not taken. -/
  | appendFails (i : Instr) (rest : List Byte) (hp : s.Evaluating) (hm : s.moreInstructions = true)
      (hf : s.fetch = .ok i rest) (hw : i.wf s.memorySize) (ha : s.appendFails = true) :
      StepCase s ((((i.drawFrom s).writeWire i.dest.toNat (i.result s)).leavePartialRecord (i.result s)).abort
        (.ioError (.append s.n)))
  | truncated (hp : s.Evaluating) (hm : s.moreInstructions = true) (hf : s.fetch = .truncated) :
      StepCase s (s.abort (.truncatedInstruction s.n s.pc))
  | unknownTag (t : Byte) (hp : s.Evaluating) (hm : s.moreInstructions = true) (hf : s.fetch = .unknownTag t) :
      StepCase s (s.abort (.unknownOpcode s.n s.pc t))
  | bytesLeft (hp : s.Evaluating) (hm : s.moreInstructions = false)
      (he : s.pc ≠ s.circuit.header.opcodesSize.toNat) :
      StepCase s (s.abort (.streamLengthMismatch s.pc s.circuit.header.opcodesSize.toNat))
  | closeFails (hp : s.Evaluating) (hm : s.moreInstructions = false) (he : s.pc = s.circuit.header.opcodesSize.toNat)
      (hc : (s.traceAttached && s.sink.closeFails) = true) : StepCase s (s.abort (.ioError .closing))
  /-- The Evaluate completes. -/
  | ends (hp : s.Evaluating) (hm : s.moreInstructions = false) (he : s.pc = s.circuit.header.opcodesSize.toNat)
      (hc : (s.traceAttached && s.sink.closeFails) = false) : StepCase s s.complete

/-- An instruction of the dispatch loop is one of its cases. -/
theorem stepInstruction_cases {s t : State} (hp : s.Evaluating) (hm : s.moreInstructions = true)
    (h : s.stepInstruction = .next t) : StepCase s t := by
  unfold State.stepInstruction at h
  split at h
  · rename_i i rest hf
    rcases exec_cases i s with ⟨x, hx, ho, he⟩ | ⟨hi, he⟩ | ⟨hw, ha, he⟩ <;> rw [he] at h <;> cases h
    · exact .badOperand i rest x hp hm hf hx ho
    · exact .completes i rest hp hm hf hi
    · exact .appendFails i rest hp hm hf hw ha
  · rename_i hf
    cases h
    exact .truncated hp hm hf
  · rename_i t hf
    cases h
    exact .unknownTag t hp hm hf

/-- The end of a run is one of its cases. -/
theorem finishEvaluate_cases {s : State} (hp : s.Evaluating) (hm : s.moreInstructions = false) :
    StepCase s s.finishEvaluate := by
  unfold State.finishEvaluate
  by_cases he : s.pc = s.circuit.header.opcodesSize.toNat
  · simp only [he, ne_eq, not_true_eq_false, if_false]
    cases hc : s.traceAttached && s.sink.closeFails with
    | true => exact .closeFails hp hm he hc
    | false => exact .ends hp hm he hc
  · simp only [ne_eq, he, not_false_eq_true, if_true]
    exact .bytesLeft hp hm he

/-- An Evaluate starts or is rejected. -/
theorem startEvaluate_cases {s : State} {h : Nat} {input : List Byte} {batch : Int} {attached : Bool}
    {draws : SinkDraws} {rest : List Request} (hp : s.phase = .idle)
    (hr : s.requests = .evaluate h input batch attached draws :: rest) (hlt : h < s.circuits.length) :
    StepCase s (s.popRequest.startEvaluate h input batch attached draws) := by
  have hc : s.circuits[h]? = some s.circuits[h] := List.getElem?_eq_getElem hlt
  by_cases ha : s.circuits[h].Accepts input batch attached draws
  · exact .started h _ input batch attached draws rest hp hr hc ha
  · have hcirc : (s.popRequest.accept h input draws).circuit = s.circuits[h] := State.circuit_of_getElem? hc
    cases he : evaluateError s.circuits[h] input batch with
    | some e =>
      have : s.popRequest.startEvaluate h input batch attached draws =
          (s.popRequest.accept h input draws).abortBatch batch.toNat e := by
        simp [State.startEvaluate, hcirc, he]
      exact this ▸ .rejected h _ input batch attached draws rest e hp hr hc (.inl he)
    | none =>
      obtain ⟨h1, h2, h3⟩ := evaluateError_eq_none.1 he
      have ho : (attached && draws.openFails) = true := by
        cases hb : attached && draws.openFails with
        | true => rfl
        | false => exact absurd ⟨h1, h2, h3, hb⟩ ha
      have : s.popRequest.startEvaluate h input batch attached draws =
          (s.popRequest.accept h input draws).abortBatch batch.toNat (.ioError .opening) := by
        simp [State.startEvaluate, hcirc, he, ho]
      exact this ▸ .rejected h _ input batch attached draws rest _ hp hr hc (.inr rfl)

/-- Everything a step that answers a next state can have done. -/
theorem step_cases {s t : State} (h : step s = .next t) : StepCase s t := by
  unfold step at h
  split at h
  · rename_i hp
    unfold State.serve at h
    split at h
    · rename_i hr
      cases h
      exact .wait hp hr
    · rename_i file draws rest hr
      cases h
      exact .load file draws rest hp hr
    · rename_i flag rest hr
      cases h
      exact .setRandomEnable flag rest hp hr
    · rename_i rest hr
      cases h
      exact .reseed rest hp hr
    · rename_i handle input batch attached draws rest hr
      split at h
      · rename_i hlt
        cases h
        exact startEvaluate_cases hp hr hlt
      · cases h
  · rename_i hp
    split at h
    · rename_i hlt
      split at h
      · rename_i hm
        exact stepInstruction_cases ⟨hp, hlt⟩ hm h
      · rename_i hm
        cases h
        exact finishEvaluate_cases ⟨hp, hlt⟩ (by simpa using hm)
    · cases h

/-- With an Evaluate in flight and an instruction to run, a step is that instruction. -/
theorem step_eq_stepInstruction {s : State} (hp : s.Evaluating) (hm : s.moreInstructions = true) :
    step s = s.stepInstruction := by
  simp [step, hp.1, hp.2, hm]

/-- With an Evaluate in flight and no instruction left, a step is the end of the run. -/
theorem step_eq_finish {s : State} (hp : s.Evaluating) (hm : s.moreInstructions = false) :
    step s = .next s.finishEvaluate := by
  simp [step, hp.1, hp.2, hm]

/-- An idle block that is asked for an Evaluate on a loaded circuit begins it. -/
theorem step_eq_start {s : State} {h : Nat} {c : Circuit} {input : List Byte} {batch : Int} {attached : Bool}
    {draws : SinkDraws} (ha : s.AsksEvaluate h c input batch attached draws) :
    step s = .next (s.popRequest.startEvaluate h input batch attached draws) := by
  obtain ⟨⟨hp, hr⟩, hc⟩ := ha
  obtain ⟨hlt, -⟩ := List.getElem?_eq_some_iff.1 hc
  obtain ⟨rest, hr⟩ := List.head?_eq_some_iff.1 hr
  simp [step, hp, State.serve, hr, hlt]

/-- A run of k + 1 steps is a step and a run of k, for any machine. -/
theorem run_succ {M : Host.Core} {s t : M.State} (k : Nat) (h : M.step s = .next t) : M.run (k + 1) s = M.run k t := by
  rw [Host.Core.run, h]

/-- A run of k + 1 steps is a step and a run of k. -/
theorem core_run_succ {s t : State} (k : Nat) (h : step s = .next t) :
    Sys2Proof.core.run (k + 1) s = Sys2Proof.core.run k t :=
  run_succ (M := Sys2Proof.core) k h

/-- With an Evaluate in flight the machine does not stop. -/
theorem step_next_of_evaluating {s : State} (hp : s.Evaluating) : ∃ t, step s = .next t := by
  cases hm : s.moreInstructions with
  | false => exact ⟨_, step_eq_finish hp hm⟩
  | true =>
    rw [step_eq_stepInstruction hp hm]
    unfold State.stepInstruction
    split
    · exact exec_next _ _
    · exact ⟨_, rfl⟩
    · exact ⟨_, rfl⟩

end Sys2Proof.Machine
end

