-- ==== Sys2Proof/Tests/Slice0.lean ====
section
/-! SUPPORT. The model's own tests, with expected results from spec/95_test_vectors.md (the table's row is named), and
for every statement with hypotheses a concrete case that meets them. -/

namespace Sys2Proof.Tests

open Sys2Proof Sys2Proof.Machine

/-! ## Small states -/

/-- A circuit of 16 wires with these cells, for one instruction run by itself. -/
def gateCircuit (ram : Memory) : Circuit :=
  { Circuit.unloaded with header := { Circuit.unloaded.header with memory := 16 }, ram := ram }

/-- An Evaluate at batch b in flight on a circuit, in deterministic mode and without a sink. -/
def running (c : Circuit) (b : Nat) : State :=
  { State.reset with
    randomEnable := false, circuits := [c], phase := .evaluating, b := b, notMask := notMaskOf b
    input := List.replicate b 0 }

/-- An Evaluate with a sink whose append of instruction 0 fails or not. -/
def traced (c : Circuit) (b : Nat) (fails : Option Nat) : State :=
  { running c b with
    traceAttached := true, sinkOpen := true
    sink := { openFails := false, appendFailsAt := fails, closeFails := false } }

/-- The circuit of program P1 with another opcode stream. -/
def streamCircuit (opcodes : List Byte) (count : HeaderField) : Circuit :=
  { header :=
      { inputSize := 2, outputSize := 1, numOpcodes := count, opcodesSize := BitVec.ofNat 32 opcodes.length, memory := 3 }
    inputAddr := [0, 1], outputAddr := [2], opcodes := opcodes, ram := [] }

/-- P1's circuit. -/
def p1 : Circuit := streamCircuit [0x00, 0x02, 0x00, 0x00, 0x00, 0x01, 0x00] 1

/-- A sink none of whose operations fails. -/
def goodSink : SinkDraws := { openFails := false, appendFailsAt := none, closeFails := false }

/-- A Load whose allocations all succeed. -/
def goodAlloc : AllocDraws :=
  { inputAddrFails := false, outputAddrFails := false, opcodesFails := false, ramFails := false }

/-- An idle block with one circuit and one request. -/
def asking (c : Circuit) (r : Request) : State :=
  { State.reset with randomEnable := false, circuits := [c], requests := [r] }

/-- P1's file. -/
def p1File : List Byte :=
  [0x02, 0, 0, 0, 0x01, 0, 0, 0, 0x01, 0, 0, 0, 0x07, 0, 0, 0, 0x03, 0, 0, 0] ++
  [0x00, 0x00, 0x01, 0x00, 0x02, 0x00] ++ [0x00, 0x02, 0x00, 0x00, 0x00, 0x01, 0x00]

/-- A wire after a step that goes on. -/
def wireAfter (o : Host.Outcome State Fault Refusal) (a : Nat) : Option Word := (nextState? o).map (·.readWire a)

/-- The status after a step that goes on. -/
def statusAfter (o : Host.Outcome State Fault Refusal) : Option Status := (nextState? o).map (·.status)

/-! ## WellFormed: each check refuses an ill-formed term -/

theorem test_wf_default_tags : defaultTags.wf := by decide
theorem test_wf_refuses_equal_tags : ¬ { defaultTags with notTag := 0x01 }.wf := by decide
theorem test_wf_accepts_last_wire : (Instr.xor 2 0 1).wf 3 := by simp [Instr.wf, Instr.operands]
theorem test_wf_refuses_d : ¬ (Instr.xor 3 0 1).wf 3 := by simp [Instr.wf, Instr.operands]
theorem test_wf_refuses_s1 : ¬ (Instr.not 2 3).wf 3 := by simp [Instr.wf, Instr.operands]
theorem test_wf_refuses_s2 : ¬ (Instr.and 2 0 5).wf 3 := by simp [Instr.wf, Instr.operands]

/-! ## Decoding, from words written out by hand (R65 to R67, R77; F1, F9, F10; P2, P3) -/

theorem test_decode_xor : decode defaultTags [0x00, 0x34, 0x12, 0x78, 0x56, 0xBC, 0x9A, 0xEE] =
    .ok (.xor 0x1234 0x5678 0x9ABC) [0xEE] := by decide
theorem test_decode_and : decode defaultTags [0x01, 0x06, 0x00, 0x02, 0x00, 0x03, 0x00] = .ok (.and 6 2 3) [] := by decide
theorem test_decode_or : decode defaultTags [0x02, 0x07, 0x00, 0x05, 0x00, 0x06, 0x00] = .ok (.or 7 5 6) [] := by decide
theorem test_decode_not : decode defaultTags [0x03, 0x08, 0x00, 0x04, 0x01] = .ok (.not 8 0x0104) [] := by decide
theorem test_decode_random : decode defaultTags [0x04, 0x02, 0x00, 0x00] = .ok (.random 2) [0x00] := by decide
theorem test_decode_truncated : decode defaultTags [0x00, 0x02, 0x00, 0x00] = .truncated := by decide
theorem test_decode_unknown_before_truncated : decode defaultTags [0xFF] = .unknownTag 0xFF := by decide
theorem test_decode_other_tags :
    decode { defaultTags with xorTag := 0x10, randomTag := 0x00 } [0x00, 0x02, 0x00] = .ok (.random 2) [] := by decide
theorem test_table_word : decodeTableWord 56 0x00010000000200 = some (.xor 2 0 1) := by decide
theorem test_table_word_tag_only : decodeTableWord 8 0x04 = some (.random 0) := by decide
theorem test_table_word_unknown : decodeTableWord 8 0x05 = none := by decide

/-! ## The instructions (V3), one step each -/

/-- G1. -/
theorem test_xor : wireAfter (exec (.xor 2 0 1) (running (gateCircuit [(0, 0x80), (1, 0xC0)]) 1)) 2 = some 0x40 := by decide
/-- G3: the old value is read first, and the zero word is stored. -/
theorem test_xor_in_place :
    wireAfter (exec (.xor 5 5 6) (running (gateCircuit [(5, 0x80), (6, 0x80)]) 1)) 5 = some 0 := by decide
/-- G5. -/
theorem test_and : wireAfter (exec (.and 10 0 8) (running (gateCircuit [(0, 0xC0), (8, 0xA0)]) 3)) 10 = some 0x80 := by decide
/-- G7. -/
theorem test_and_zero : wireAfter (exec (.and 2 2 4) (running (gateCircuit [(2, 0xDEADBEEF)]) 1)) 2 = some 0 := by decide
/-- G8. -/
theorem test_or : wireAfter (exec (.or 7 5 6) (running (gateCircuit [(5, 0x03), (6, 0x14)]) 8)) 7 = some 0x17 := by decide
/-- G9. -/
theorem test_or_zero : wireAfter (exec (.or 1 1 2) (running (gateCircuit [(2, 0xF00F)]) 8)) 1 = some 0xF00F := by decide
/-- G11. -/
theorem test_not : wireAfter (exec (.not 8 4) (running (gateCircuit [(4, 0x68)]) 5)) 8 = some 0x90 := by decide
/-- G14: inactive bits are kept. -/
theorem test_not_keeps_inactive :
    wireAfter (exec (.not 0 0) (running (gateCircuit [(0, 0xFF00)]) 2)) 0 = some 0xFFC0 := by decide
/-- G16. -/
theorem test_random_disabled :
    wireAfter (exec (.random 2) (running (gateCircuit [(2, 0x5A)]) 1)) 2 = some 0 := by decide
/-- G17, with the draw fixed in advance. -/
theorem test_random_draw :
    wireAfter (exec (.random 2)
      { running (gateCircuit []) 2 with
        randomEnable := true
        randomSource := { sequence := 0, drawn := 0, supplied := [0x0123456789ABCDEF, 0xD2] } }) 2 =
      some 0x0123456789ABCDEF := by decide

/-! ## Mask, width, records (V1, V2, V4) -/

theorem test_ioBit : [0, 7, 8, 10, 63].map ioBit = [7, 0, 15, 13, 56] := by decide
theorem test_notMask :
    [1, 3, 9, 17, 33, 64].map notMaskOf =
      [0x80, 0xE0, 0x80FF, 0x80FFFF, 0x80FFFFFFFF, 0xFFFFFFFFFFFFFFFF] := by decide
theorem test_traceWidth : [1, 8, 9, 16, 17, 32, 33, 64].map traceWidth = [1, 1, 2, 2, 4, 4, 8, 8] := by decide
theorem test_traceRecord : traceRecord 17 0x0123456789ABCDEF = [0xEF, 0xCD, 0xAB, 0x89] := by decide

/-! ## Codec (V5) -/

/-- C2. -/
theorem test_pack : packWires [0xC0, 0x80, 0x40, 0x00] 1 4 0 [0, 1] [] = [(0, 0xC0), (1, 0xA0)] := by decide
/-- C3 and C4: the padding bits have no effect. -/
theorem test_pack_two_bytes :
    packWires [0x80, 0xFF, 0x80, 0x7F, 0x7F, 0xFF] 2 3 0 [0, 1, 2, 3, 4, 5, 6, 7, 8] [] =
      [(0, 0xC0), (1, 0x20), (2, 0x20), (3, 0x20), (4, 0x20), (5, 0x20), (6, 0x20), (7, 0x20), (8, 0xA0)] := by decide +kernel
/-- C5: the output bits of four instances, and the length of their buffer. -/
theorem test_unpack :
    [0, 1, 2, 3].map (outputBit { p1 with ram := [(2, 0x60)] } 0) = [false, true, true, false] ∧
      (unpackOutputs p1 4 0).length = 4 := by decide

/-! ## Load and Evaluate (V6, V7) -/

set_option maxRecDepth 4096 in
set_option maxRecDepth 4096 in
/-- LD2, LD3, LD4, R79's 19 bytes, and each place where an allocation can fail (R142). -/
theorem test_load_errors :
    loadError [] goodAlloc = some (.malformedHeader 0) ∧
    loadError (p1File.take 19) { goodAlloc with inputAddrFails := true } = some (.malformedHeader 19) ∧
    loadError (p1File.take 20) { goodAlloc with inputAddrFails := true } = some .outOfMemory ∧
    loadError (p1File.take 20) { goodAlloc with outputAddrFails := true } = some .outOfMemory ∧
    loadError (p1File.take 25) { goodAlloc with opcodesFails := true } = some (.malformedTable 25) ∧
    loadError (p1File.take 26) { goodAlloc with opcodesFails := true } = some .outOfMemory ∧
    loadError (p1File.take 25) goodAlloc = some (.malformedTable 25) ∧
    loadError (p1File.take 32) goodAlloc = some (.malformedOpcodes 32) ∧
    loadError p1File { goodAlloc with ramFails := true } = some .outOfMemory := by decide
/-- P1's file is P1's circuit, but for the wires. -/
theorem test_load_p1 : loadError p1File goodAlloc = none ∧ { parseCircuit p1File 0 with ram := [] } = p1 := by decide
/-- F12, F13, F14, F15, F17, F18, F20, F21. -/
theorem test_evaluate_errors :
    evaluateError { p1 with inputAddr := [0, 3] } [0xC0] 1 = some (.tableAddressOutOfRange .input 1 3) ∧
    evaluateError { p1 with outputAddr := [3] } [0xC0] 1 = some (.tableAddressOutOfRange .output 0 3) ∧
    evaluateError { p1 with inputAddr := [0, 4], outputAddr := [3] } [0xC0] 1 =
      some (.tableAddressOutOfRange .input 1 4) ∧
    evaluateError { p1 with inputAddr := [1, 1] } [0xC0] 1 = some (.duplicateInputAddress 0 1) ∧
    evaluateError p1 [] 0 = some (.invalidBatch 0) ∧
    evaluateError p1 (List.replicate 65 0xC0) 65 = some (.invalidBatch 65) ∧
    evaluateError p1 [0xC0] 2 = some (.inputLengthMismatch 1) ∧
    evaluateError p1 [0xC0, 0xC0] 0 = some (.invalidBatch 0) := by decide
/-- R8: the output of an aborted Evaluate has `b*outB` bytes, in an Evaluate turned away and in one in flight. -/
theorem test_aborted_output_length :
    (nextState? (step (asking p1 (.evaluate 0 [0xC0] 3 false goodSink)))).map (·.output.length) = some 3 ∧
    (nextState? (step (running (streamCircuit [0xFF] 1) 5))).map (·.output.length) = some 5 := by decide
/-- P1, run e: the wires an Evaluate starts with. -/
theorem test_start_p1 :
    (nextState? (step (asking p1 (.evaluate 0 [0xC0, 0x80, 0x40, 0x00] 4 true goodSink)))).map
      (fun t => (t.phase, t.notMask, t.circuit.ram)) = some (.evaluating, 0xF0, [(0, 0xC0), (1, 0xA0)]) := by decide
/-- F5 and F6. -/
theorem test_operand_errors :
    statusAfter (exec (.xor 3 0 1) (running p1 1)) = some (.fault (.operandAddressOutOfRange 0 0 3)) ∧
    statusAfter (exec (.xor 2 0 5) (running p1 1)) = some (.fault (.operandAddressOutOfRange 0 0 5)) := by decide
/-- F3: bytes left over. -/
theorem test_bytes_left :
    statusAfter (step { running (streamCircuit [0x00, 0x02, 0x00, 0x00, 0x00, 0x01, 0x00, 0x00] 1) 1 with pc := 7, n := 1 }) =
      some (.fault (.streamLengthMismatch 7 8)) := by decide
/-- F24: a failed append leaves the earlier records. -/
theorem test_failed_append :
    (nextState? (exec (.or 7 5 6)
      { traced (gateCircuit [(5, 0x03), (6, 0x14)]) 8 (some 3) with n := 3, trace := [[0x3C], [0x69], [0x03]] })).map
      (fun t => (t.status, t.trace, t.readWire 7)) =
      some (.fault (.ioError (.append 3)), [[0x3C], [0x69], [0x03]], 0x17) := by decide
/-- A table word runs as the first instruction after reset. -/
theorem test_withFetchWord : (nextState? (step (State.reset.withFetchWord 8 0x03))).map (·.pc) = some 5 := by decide

/-! ## Cases that meet the hypotheses of the statements

One theorem for each statement with hypotheses, or for each of its clauses, named after it. -/

/-- P1's circuit accepts an Evaluate of one instance. -/
theorem p1_accepts (attached : Bool) : p1.Accepts [0xC0] 1 attached goodSink :=
  ⟨by decide, by decide, ⟨by simp [p1, streamCircuit], by simp [p1, streamCircuit], by decide⟩, by cases attached <;> rfl⟩

/-- P1's circuit is as Load leaves one. -/
theorem p1_wf : p1.wf := by decide

/-- A host that asks for an Evaluate of one instance of P1. -/
def askingP1 : State := asking p1 (.evaluate 0 [0xC0] 1 false goodSink)

/-- P1 in flight at its instruction. -/
def runningP1 : State := running p1 1

/-- P1 in flight after its instruction, with a sink or not. -/
def finishingP1 (attached closeFails : Bool) : State :=
  { running p1 1 with
    pc := 7, n := 1, traceAttached := attached, sinkOpen := attached
    trace := if attached then [[0x40]] else []
    sink := { goodSink with closeFails := closeFails } }

/-- The states of P1 in flight have the invariant. -/
theorem p1_inv (s : State) (h : s = runningP1 ∨ s = finishingP1 false false ∨ s = finishingP1 true false ∨
    s = finishingP1 true true) : s.phase = .evaluating ∧ s.Inv := by
  rcases h with rfl | rfl | rfl | rfl <;>
    refine ⟨rfl, by decide, by simp only [runningP1, finishingP1, running, List.mem_singleton, forall_eq]; exact p1_wf,
      by decide, by decide, by decide, by decide, by decide, by decide,
      (p1_accepts false).2.2.1.1, (p1_accepts false).2.2.1.2.1,
      by decide, by decide, by decide, by decide, by decide, by decide⟩

/-! ### Encoding and decoding -/

theorem witness_DecodeInvertsEncode : defaultTags.wf ∧ { defaultTags with xorTag := 0xFF }.wf := by decide
theorem witness_EncodeInvertsDecode :
    defaultTags.wf ∧ decode defaultTags [0x04, 0xFF, 0xFF, 0x00] = .ok (.random 0xFFFF) [0x00] := by decide
/-- The first and the last byte outside the default `TAG`. -/
theorem witness_UnknownTagsAbort (t : Byte) (h : t = 0x05 ∨ t = 0xFF) :
    let s := running (streamCircuit [t] 1) 1
    s.Evaluating ∧ s.circuit.wf ∧ s.moreInstructions = true ∧ s.circuit.opcodes[s.pc]? = some t ∧ t ∉ s.tags.tags := by
  rcases h with rfl | rfl <;> decide
/-- No byte left, so no tag byte. -/
theorem witness_TruncatedInstructionsAbort_tag :
    let s := running (streamCircuit [] 1) 1
    s.Evaluating ∧ s.tags.wf ∧ s.circuit.wf ∧ s.moreInstructions = true ∧
      s.pc + 1 > s.circuit.header.opcodesSize.toNat := by decide
/-- Every byte of the instruction but the last. -/
theorem witness_TruncatedInstructionsAbort_fields (op : Op) :
    let s := running (streamCircuit (defaultTags.tag op :: List.replicate (op.width - 2) 0) 1) 1
    s.Evaluating ∧ s.tags.wf ∧ s.circuit.wf ∧ s.moreInstructions = true ∧
      s.circuit.opcodes[s.pc]? = some (s.tags.tag op) ∧ s.pc + op.width > s.circuit.header.opcodesSize.toNat := by
  cases op <;> decide
theorem witness_StepRunsTheDecodedInstruction :
    let s := runningP1
    s.Evaluating ∧ s.n < s.circuit.header.numOpcodes.toNat ∧
      decode s.tags ((s.circuit.opcodes.take s.circuit.header.opcodesSize.toNat).drop s.pc) = .ok (.xor 2 0 1) [] := by
  decide

/-! ### Instructions -/

/-- Each instruction on the wires 13, 14 and 15 of 16, the last ones. -/
def topWires (op : Op) : Instr :=
  match op with
  | .xor => .xor 15 14 13
  | .and => .and 15 14 13
  | .or => .or 15 14 13
  | .not => .not 15 14
  | .random => .random 15

/-- XorMeaning, AndMeaning, OrMeaning, NotMeaning, RandomMeaning: the premise of their contract. -/
theorem witness_GateContract (op : Op) (enable : Bool) :
    ({ running (gateCircuit []) 1 with randomEnable := enable } : State).Runs (topWires op) := by
  cases op <;> cases enable <;>
    exact ⟨by simp [topWires, Instr.wf, Instr.operands, State.reset, State.memorySize, State.circuit, running, gateCircuit], by decide⟩
theorem witness_FailedAppendLeavesPartOfARecord (op : Op) (enable : Bool) :
    let s : State := { traced (gateCircuit []) 1 (some 0) with randomEnable := enable }
    (topWires op).wf s.memorySize ∧ s.appendFails = true ∧
      ∃ u, exec (topWires op) { s with sink := { s.sink with appendFailsAt := none } } = .next u := by
  cases op <;> cases enable <;>
    exact ⟨by simp [topWires, Instr.wf, Instr.operands, State.reset, State.memorySize, State.circuit, running, traced, gateCircuit], by decide, _, rfl⟩
/-- InstructionFrame, the second clause of TraceRecordIsTheLowBytes, and RandomMeaning's clauses on the source. -/
theorem witness_InstructionFrame (op : Op) (enable : Bool) :
    let s : State := { running (gateCircuit []) 1 with randomEnable := enable }
    s.Runs (topWires op) ∧ (∃ t, exec (topWires op) s = .next t) ∧ (topWires op).dest.toNat < s.memorySize :=
  ⟨witness_GateContract op enable, by cases op <;> cases enable <;> exact ⟨_, rfl⟩, by cases op <;> cases enable <;> decide⟩
/-- RandomMeaning: draws fixed in advance, and none fixed, before two RANDOMs. -/
theorem witness_RandomMeaning (supplied : List Word) (h : supplied = [] ∨ supplied = [1, 2]) :
    ∃ t, let s : State := { running (gateCircuit []) 1 with
        randomEnable := true, randomSource := { sequence := 0, drawn := 0, supplied := supplied } }
      s.randomEnable = true ∧ (15 : WireAddr).toNat < s.memorySize ∧ s.Runs (.random 15) ∧
        exec (.random 15) s = .next t ∧ t.Runs (.random 14) := by
  rcases h with rfl | rfl <;>
    exact ⟨_, rfl, by decide, witness_GateContract .random true, rfl, by simp [Instr.wf, Instr.operands]; decide, by decide⟩
/-- d is out of range, and s1 and s2 too. -/
theorem witness_OperandsAreCheckedInOrder_first :
    (Instr.xor 16 17 18).operands[0]? = some 16 ∧ (running (gateCircuit []) 1).memorySize ≤ (16 : WireAddr).toNat ∧
      ∀ (m : Nat) (y : WireAddr), m < 0 → (Instr.xor 16 17 18).operands[m]? = some y →
        y.toNat < (running (gateCircuit []) 1).memorySize :=
  ⟨rfl, by decide, fun _ _ h => absurd h (Nat.not_lt_zero _)⟩
/-- Only s2 is out of range. -/
theorem witness_OperandsAreCheckedInOrder_last :
    (Instr.xor 15 0 16).operands[2]? = some 16 ∧ (running (gateCircuit []) 1).memorySize ≤ (16 : WireAddr).toNat ∧
      ∀ (m : Nat) (y : WireAddr), m < 2 → (Instr.xor 15 0 16).operands[m]? = some y →
        y.toNat < (running (gateCircuit []) 1).memorySize := by
  refine ⟨rfl, by decide, fun m y hm h => ?_⟩
  match m, hm with
  | 0, _ => cases h; decide
  | 1, _ => cases h; decide
theorem witness_NotInvertsExactlyTheActiveLanes :
    let s := runningP1
    s.phase = .evaluating ∧ s.Inv ∧ s.Runs (.not 2 0) ∧ ∃ t, exec (.not 2 0) s = .next t :=
  ⟨rfl, (p1_inv _ (.inl rfl)).2,
    ⟨by simp [Instr.wf, Instr.operands, State.reset, runningP1, running, State.memorySize, State.circuit, p1, streamCircuit], by decide⟩, _, rfl⟩
theorem witness_NotTwiceGivesTheOriginalWord :
    ∃ t u, runningP1.Runs (.not 2 0) ∧ exec (.not 2 0) runningP1 = .next t ∧ t.Runs (.not 2 2) ∧
      exec (.not 2 2) t = .next u :=
  ⟨_, _, witness_NotInvertsExactlyTheActiveLanes.2.2.1, rfl,
    ⟨by simp [Instr.wf, Instr.operands]; decide, by decide⟩, rfl⟩
/-- Lane 7 agrees and lane 6 does not. -/
theorem witness_LanesAreIndependent :
    let s := running (gateCircuit [(0, 0x80)]) 2
    (∀ a, (Memory.read [(0, 0xC0)] a).getLsbD 7 = (s.readWire a).getLsbD 7) ∧
      (∃ t, exec (.xor 2 0 1) s = .next t) ∧ ∃ t', exec (.xor 2 0 1) (s.setRam [(0, 0xC0)]) = .next t' := by
  refine ⟨fun a => ?_, ⟨_, rfl⟩, _, rfl⟩
  cases a <;> rfl

/-! ### Batch, mask and trace -/

/-- NotMaskIsTheActiveBits, TraceWidthByBatch, TraceRecordIsTheLowBytes: the least and the greatest batch, and the two
on each side of where the width changes, are in test_notMask and test_traceWidth. -/
theorem witness_batches : ∀ b ∈ [1, 8, 9, 16, 17, 32, 33, 64], 1 ≤ b ∧ b ≤ 64 := by decide
theorem witness_SlotToBitMapIsAnInvolution : (63 < 64 ∧ 64 ≤ 64) ∧ 7 < 8 ∧ (0 < 64 ∧ ioBit 0 = ioBit 0) := by decide
theorem witness_CompletedTraceHasOneRecordPerInstruction (attached : Bool) :
    ∃ t, (finishingP1 attached false).Inv ∧ (finishingP1 attached false).phase = .evaluating ∧
      step (finishingP1 attached false) = .next t ∧ t.phase = .idle ∧ t.status = .ok := by
  cases attached
  · exact ⟨_, (p1_inv _ (.inr (.inl rfl))).2, rfl, rfl, rfl, rfl⟩
  · exact ⟨_, (p1_inv _ (.inr (.inr (.inl rfl)))).2, rfl, rfl, rfl, rfl⟩
theorem witness_SinkIsClosedAtTheEnd_closed :
    ∃ t, (finishingP1 true false).phase = .evaluating ∧ step (finishingP1 true false) = .next t ∧ t.phase = .idle :=
  ⟨_, rfl, rfl, rfl⟩
theorem witness_SinkIsClosedAtTheEnd_close_fails :
    let s := finishingP1 true true
    s.Evaluating ∧ s.moreInstructions = false ∧ s.pc = s.circuit.header.opcodesSize.toNat ∧ s.traceAttached = true ∧
      s.sink.closeFails = true := by decide
theorem witness_SinkIsClosedAtTheEnd_first_fault :
    ∃ t, let s := traced (streamCircuit [0xFF] 1) 1 none
      s.Evaluating ∧ step s = .next t ∧ t.phase = .idle ∧ t.status = .fault (.unknownOpcode 0 0 0xFF) :=
  ⟨_, by decide, rfl, rfl, rfl⟩

/-! ### Starting an Evaluate -/

/-- The batches next to the legal ones. -/
theorem witness_BatchIsCheckedFirst (b : Int) (h : b = 0 ∨ b = 65) :
    (asking p1 (.evaluate 0 [] b true goodSink)).AsksEvaluate 0 p1 [] b true goodSink ∧ (b < 1 ∨ 64 < b) :=
  ⟨⟨⟨rfl, rfl⟩, rfl⟩, by omega⟩
/-- A byte too many at the greatest batch. -/
theorem witness_InputLengthIsChecked :
    let input := List.replicate 65 0xC0
    (asking p1 (.evaluate 0 input 64 false goodSink)).AsksEvaluate 0 p1 input 64 false goodSink ∧
      input.length ≠ (64 : Int).toNat * ((p1.header.inputSize.toNat + 7) / 8) :=
  ⟨⟨⟨rfl, rfl⟩, rfl⟩, by decide⟩
/-- F12: the second entry of the input table is `memory`. -/
theorem witness_AddressTablesAreChecked_input :
    let c : Circuit := { p1 with inputAddr := [0, 3] }
    (asking c (.evaluate 0 [0xC0] 1 false goodSink)).AsksEvaluate 0 c [0xC0] 1 false goodSink ∧
      [(0xC0 : Byte)].length = (1 : Int).toNat * ((c.header.inputSize.toNat + 7) / 8) ∧
      c.inputAddr[1]? = some 3 ∧ c.header.memory.toNat ≤ (3 : WireAddr).toNat ∧
      ∀ (k : Nat) (x : WireAddr), k < 1 → c.inputAddr[k]? = some x → x.toNat < c.header.memory.toNat := by
  refine ⟨⟨⟨rfl, rfl⟩, rfl⟩, by decide, rfl, by decide, fun k x hk h => ?_⟩
  match k, hk with
  | 0, _ => cases h; decide
/-- F13. -/
theorem witness_AddressTablesAreChecked_output :
    let c : Circuit := { p1 with outputAddr := [3] }
    (asking c (.evaluate 0 [0xC0] 1 false goodSink)).AsksEvaluate 0 c [0xC0] 1 false goodSink ∧
      [(0xC0 : Byte)].length = (1 : Int).toNat * ((c.header.inputSize.toNat + 7) / 8) ∧
      (∀ x ∈ c.inputAddr, x.toNat < c.header.memory.toNat) ∧
      c.outputAddr[0]? = some 3 ∧ c.header.memory.toNat ≤ (3 : WireAddr).toNat ∧
      ∀ (k : Nat) (x : WireAddr), k < 0 → c.outputAddr[k]? = some x → x.toNat < c.header.memory.toNat :=
  ⟨⟨⟨rfl, rfl⟩, rfl⟩, by decide, by simp [p1, streamCircuit], rfl, by decide, fun _ _ h => absurd h (Nat.not_lt_zero _)⟩
/-- F15. -/
theorem witness_AddressTablesAreChecked_duplicate :
    let c : Circuit := { p1 with inputAddr := [1, 1] }
    (asking c (.evaluate 0 [0xC0] 1 false goodSink)).AsksEvaluate 0 c [0xC0] 1 false goodSink ∧
      [(0xC0 : Byte)].length = (1 : Int).toNat * ((c.header.inputSize.toNat + 7) / 8) ∧
      (∀ x ∈ c.inputAddr, x.toNat < c.header.memory.toNat) ∧ (∀ x ∈ c.outputAddr, x.toNat < c.header.memory.toNat) ∧
      c.inputAddr[0]? = some 1 ∧ c.inputAddr[1]? = some 1 ∧
      (∀ (k k' : Nat) (x : WireAddr), k < k' → k' < 1 → c.inputAddr[k]? = some x → c.inputAddr[k']? ≠ some x) ∧
      ∀ k, k < 0 → c.inputAddr[k]? ≠ some 1 :=
  ⟨⟨⟨rfl, rfl⟩, rfl⟩, by decide, by simp [p1, streamCircuit], by simp [p1, streamCircuit], rfl, rfl,
    fun _ _ _ h h' => by omega, fun _ h => absurd h (Nat.not_lt_zero _)⟩
theorem witness_SinkThatDoesNotOpenAborts :
    let draws : SinkDraws := { goodSink with openFails := true }
    (asking p1 (.evaluate 0 [0xC0] 1 true draws)).AsksEvaluate 0 p1 [0xC0] 1 true draws ∧ legalBatch 1 ∧
      [(0xC0 : Byte)].length = (1 : Int).toNat * bytesForBits p1.header.inputSize.toNat ∧ p1.tablesOk ∧
      draws.openFails = true :=
  ⟨⟨⟨rfl, rfl⟩, rfl⟩, by decide, by decide, (p1_accepts false).2.2.1, rfl⟩
/-- AcceptedEvaluateInitialises, InputPackingPlacesEveryBit (at the last input bit), the first clause of
InactiveLanesStayZero and EveryEvaluateTerminates. -/
theorem witness_AcceptedEvaluateInitialises :
    askingP1.AsksEvaluate 0 p1 [0xC0] 1 false goodSink ∧ p1.Accepts [0xC0] 1 false goodSink ∧
      (∃ t, step askingP1 = .next t) ∧ p1.inputAddr[1]? = some 1 :=
  ⟨⟨⟨rfl, rfl⟩, rfl⟩, p1_accepts false, ⟨_, rfl⟩, rfl⟩
/-- C4: the second input differs in every padding bit. -/
theorem witness_InputPaddingIsIgnored :
    p1.wf ∧ askingP1.AsksEvaluate 0 p1 [0xC0] 1 false goodSink ∧ p1.Accepts [0xC0] 1 false goodSink ∧
      p1.Accepts [0xFF] 1 false goodSink ∧
      (∀ i j, i < p1.header.inputSize.toNat → j < (1 : Int).toNat →
        bufferBit [0xC0] (j * bytesForBits p1.header.inputSize.toNat) i =
          bufferBit [0xFF] (j * bytesForBits p1.header.inputSize.toNat) i) ∧
      ∃ t, step askingP1 = .next t := by
  refine ⟨p1_wf, ⟨⟨rfl, rfl⟩, rfl⟩, p1_accepts false, ⟨by decide, by decide, (p1_accepts false).2.2.1, rfl⟩,
    fun i j hi hj => ?_, _, rfl⟩
  match i, j, hi, hj with
  | 0, 0, _, _ => rfl
  | 1, 0, _, _ => rfl
/-- The second clause. -/
theorem witness_InputPaddingIsIgnored_in_flight :
    ∃ t, runningP1.phase = .evaluating ∧ step runningP1 = .next t := ⟨_, rfl, rfl⟩

/-! ### Ending an Evaluate -/

/-- F3: one byte is left over. -/
theorem witness_StreamEndIsChecked :
    let s : State := { running (streamCircuit [0x00, 0x02, 0x00, 0x00, 0x00, 0x01, 0x00, 0x00] 1) 1 with pc := 7, n := 1 }
    s.Evaluating ∧ s.n = s.circuit.header.numOpcodes.toNat ∧ s.pc ≠ s.circuit.header.opcodesSize.toNat := by decide
/-- With a sink and without one. -/
theorem witness_CompletedEvaluateGivesItsOutputBits (attached : Bool) :
    let s := finishingP1 attached false
    s.Evaluating ∧ s.n = s.circuit.header.numOpcodes.toNat ∧ s.pc = s.circuit.header.opcodesSize.toNat ∧
      (s.traceAttached && s.sink.closeFails) = false ∧ 0 < s.circuit.header.outputSize.toNat ∧ 0 < s.b ∧
      s.circuit.outputAddr[0]? = some 2 ∧ s.Inv := by
  cases attached
  · exact ⟨by decide, by decide, by decide, by decide, by decide, by decide, by decide, (p1_inv _ (.inr (.inl rfl))).2⟩
  · exact ⟨by decide, by decide, by decide, by decide, by decide, by decide, by decide,
      (p1_inv _ (.inr (.inr (.inl rfl)))).2⟩
/-- An abort before any write, and F24's, after the write. -/
theorem witness_AbortsArePrecise (fails : Option Nat) (h : fails = some 0) :
    (∃ t, let s := traced (streamCircuit [0xFF] 1) 1 none
      s.Evaluating ∧ s.status = .ok ∧ step s = .next t ∧ t.status = .fault (.unknownOpcode 0 0 0xFF)) ∧
    ∃ t, let s := traced p1 1 fails
      s.Evaluating ∧ s.status = .ok ∧ step s = .next t ∧ t.status = .fault (.ioError (.append 0)) := by
  subst h
  exact ⟨⟨_, by decide, rfl, rfl, rfl⟩, _, by decide, rfl, rfl, rfl⟩

/-! ### The host's other transactions -/

/-- SetRandomEnableWritesTheFlag, ReseedStartsAFreshSequence, LoadReportsItsFirstError, UnknownHandleIsRefused (on the
first handle that does not exist). -/
theorem witness_Asks (r : Request) :
    (asking p1 r).Asks r ∧ (asking p1 r).circuits.length ≤ 1 := ⟨⟨rfl, rfl⟩, Nat.le_refl _⟩
/-- LoadedCircuitIsTheFile, LoadLeavesOtherStateAlone, BytesAfterTheEndAreIgnored. -/
theorem witness_LoadedCircuitIsTheFile :
    ∃ t, let s := asking p1 (.load p1File goodAlloc)
      s.Asks (.load p1File goodAlloc) ∧ s.requests = [.load p1File goodAlloc] ∧ step s = .next t ∧ t.status = .ok ∧
        0 < s.circuits.length :=
  ⟨_, ⟨rfl, rfl⟩, rfl, rfl, rfl, by decide⟩

/-! ### The whole machine -/

/-- StepKeepsTheInvariant, OnlyAnUnknownHandleStopsTheMachine, EvaluateIsAtomic, the first clause of
CursorOnlyAdvances, CircuitsAreImmutableButForWires, TagsAreNeverWritten, the second clause of
AcceptedEvaluateInitialises, the last clause of EvaluateForgetsEarlierRuns for a step that goes on. -/
theorem witness_StepKeepsTheInvariant :
    ∃ t, runningP1.Inv ∧ runningP1.phase = .evaluating ∧ step runningP1 = .next t ∧ t.phase = .evaluating ∧
      runningP1.circuits[0]? = some p1 :=
  ⟨_, (p1_inv _ (.inl rfl)).2, rfl, rfl, rfl, rfl⟩
/-- The second clause of CursorOnlyAdvances, and the last of EvaluateForgetsEarlierRuns for a step that ends the run. -/
theorem witness_CursorOnlyAdvances_end :
    ∃ t, (finishingP1 false false).phase = .evaluating ∧ step (finishingP1 false false) = .next t ∧ t.phase = .idle :=
  ⟨_, rfl, rfl, rfl⟩
/-- The start of an Evaluate on handle 0 beside handle 1, accepted and turned away. -/
theorem witness_HandlesShareNoCircuitState_start (b : Int) (h : b = 1 ∨ b = 0) :
    ∃ t, let s : State := { asking p1 (.evaluate 0 [0xC0] b false goodSink) with circuits := [p1, p1] }
      s.AsksEvaluate 0 p1 [0xC0] b false goodSink ∧ step s = .next t ∧ 1 ≠ 0 := by
  rcases h with rfl | rfl <;> exact ⟨_, ⟨⟨rfl, rfl⟩, rfl⟩, rfl, by decide⟩
/-- An Evaluate in flight on handle 1 beside handle 0. -/
theorem witness_HandlesShareNoCircuitState :
    ∃ t, let s : State := { runningP1 with circuits := [p1, p1], current := 1 }
      s.phase = .evaluating ∧ step s = .next t ∧ 0 ≠ s.current := ⟨_, rfl, rfl, by decide⟩
theorem witness_OnlySetRandomEnableWritesTheFlag :
    ∃ t, step (asking p1 (.setRandomEnable true)) = .next t ∧
      t.randomEnable ≠ (asking p1 (.setRandomEnable true)).randomEnable := ⟨_, rfl, by decide⟩
/-- A RANDOM that draws, and a Reseed. -/
theorem witness_OnlyDrawsAndReseedTouchTheSource :
    (∃ t, let s : State := { running (streamCircuit [0x04, 0x02, 0x00] 1) 1 with randomEnable := true }
      step s = .next t ∧ t.randomSource ≠ s.randomSource) ∧
    ∃ t, step (asking p1 .reseed) = .next t ∧ t.randomSource ≠ (asking p1 .reseed).randomSource :=
  ⟨⟨_, rfl, by decide⟩, _, rfl, by decide⟩
/-- RANDOM itself, with `random_enable` false: DeterministicModeIgnoresTheSource, and the second clause of
InactiveLanesStayZero. -/
theorem witness_DeterministicModeIgnoresTheSource :
    ∃ t, let s := running (streamCircuit [0x04, 0x02, 0x00] 1) 1
      s.phase = .evaluating ∧ s.randomEnable = false ∧ s.inactiveLanesZero ∧ step s = .next t :=
  ⟨_, rfl, rfl, fun _ _ _ => BitVec.getLsbD_zero, rfl⟩
/-- The second clause of InactiveLanesStayZero with `random_enable` true. -/
theorem witness_InactiveLanesStayZero_enabled :
    ∃ t, let s : State := { runningP1 with randomEnable := true }
      s.phase = .evaluating ∧ s.inactiveLanesZero ∧ (∀ d rest, s.fetch ≠ .ok (.random d) rest) ∧ step s = .next t :=
  ⟨_, rfl, fun _ _ _ => BitVec.getLsbD_zero, fun _ _ h => DecodeResult.noConfusion h (nomatch ·), rfl⟩
/-- The second machine has run before, and its wire 2 holds a word. -/
theorem witness_EvaluateForgetsEarlierRuns :
    let s := askingP1
    let s' : State := { asking { p1 with ram := [(2, 0x40)] } (.evaluate 0 [0xC0] 1 false goodSink) with
      pc := 7, n := 1, b := 1, output := [0x40], status := .fault (.invalidBatch 0) }
    s.AsksEvaluate 0 p1 [0xC0] 1 false goodSink ∧ p1.Accepts [0xC0] 1 false goodSink ∧ s'.phase = .idle ∧
      s'.requests = s.requests ∧ s'.circuits = s.circuits.set 0 { p1 with ram := [(2, 0x40)] } ∧ s'.tags = s.tags ∧
      s'.randomEnable = s.randomEnable ∧ s'.randomSource = s.randomSource ∧ s'.freeSerial = s.freeSerial :=
  ⟨⟨⟨rfl, rfl⟩, rfl⟩, p1_accepts false, rfl, rfl, rfl, rfl, rfl, rfl, rfl⟩
/-- The same with a batch of 0, which the checks turn away. -/
theorem witness_EvaluateForgetsEarlierRuns_turned_away :
    let s := asking p1 (.evaluate 0 [] 0 false goodSink)
    let s' : State := { asking { p1 with ram := [(2, 0x40)] } (.evaluate 0 [] 0 false goodSink) with pc := 7, n := 1 }
    s.AsksEvaluate 0 p1 [] 0 false goodSink ∧ ¬ p1.Accepts [] 0 false goodSink ∧ s'.phase = .idle ∧
      s'.requests = s.requests ∧ s'.circuits = s.circuits.set 0 { p1 with ram := [(2, 0x40)] } ∧ s'.tags = s.tags ∧
      s'.randomEnable = s.randomEnable ∧ s'.randomSource = s.randomSource ∧ s'.freeSerial = s.freeSerial :=
  ⟨⟨⟨rfl, rfl⟩, rfl⟩, fun h => absurd h.1.1 (by decide), rfl, rfl, rfl, rfl, rfl, rfl, rfl⟩
/-- C1: two input bits given back at a batch of two. -/
theorem witness_CodecRoundTrip :
    let c : Circuit :=
      { streamCircuit [] 0 with
        header := { (streamCircuit [] 0).header with outputSize := 2 }, outputAddr := [0, 1] }
    (asking c (.evaluate 0 [0xC0, 0x40] 2 false goodSink)).AsksEvaluate 0 c [0xC0, 0x40] 2 false goodSink ∧ c.wf ∧
      c.header.numOpcodes = 0 ∧ c.header.opcodesSize = 0 ∧ c.header.outputSize = c.header.inputSize ∧
      c.outputAddr = c.inputAddr ∧ c.Accepts [0xC0, 0x40] 2 false goodSink ∧
      (false && goodSink.closeFails) = false :=
  ⟨⟨⟨rfl, rfl⟩, rfl⟩, by decide, rfl, rfl, rfl, rfl,
    ⟨by decide, by decide, ⟨by simp [streamCircuit], by simp [streamCircuit], by decide⟩, rfl⟩, rfl⟩
/-- P1 on one instance, and on two after an earlier run, the second of them with the same input: in deterministic mode,
and with `random_enable` true, since its stream has no RANDOM. -/
theorem witness_BatchesAreIndependent (enable : Bool) :
    ∃ t t', let c' : Circuit := { p1 with ram := [(2, 0x40)] }
      let s : State := { askingP1 with randomEnable := enable }
      let s' : State := { asking c' (.evaluate 0 [0x80, 0xC0] 2 false goodSink) with randomEnable := enable }
      s.AsksEvaluate 0 p1 [0xC0] 1 false goodSink ∧ p1.Accepts [0xC0] 1 false goodSink ∧ s.requests.length = 1 ∧
      s'.AsksEvaluate 0 c' [0x80, 0xC0] 2 false goodSink ∧ c'.Accepts [0x80, 0xC0] 2 false goodSink ∧
      s'.requests.length = 1 ∧ p1.wf ∧ s.tags = s'.tags ∧
      s.randomEnable = enable ∧ s'.randomEnable = enable ∧ p1.noRandom s.tags ∧
      0 < (1 : Int).toNat ∧ 1 < (2 : Int).toNat ∧
      (∀ i, i < p1.header.inputSize.toNat →
        bufferBit [0xC0] (0 * bytesForBits p1.header.inputSize.toNat) i =
          bufferBit [0x80, 0xC0] (1 * bytesForBits p1.header.inputSize.toNat) i) ∧
      Sys2Proof.core.run 3 s = .next t ∧ Sys2Proof.core.run 3 s' = .next t' ∧ t.phase = .idle := by
  cases enable <;>
    refine ⟨_, _, ⟨⟨rfl, rfl⟩, rfl⟩, p1_accepts false, rfl, ⟨⟨rfl, rfl⟩, rfl⟩,
      ⟨by decide, by decide, (p1_accepts false).2.2.1, rfl⟩, rfl, p1_wf, rfl, rfl, rfl,
      (by decide : ∀ i ∈ decodeStream defaultTags 1 (p1.opcodes.take 7), i.op ≠ .random), by decide, by decide,
      fun i hi => match i, hi with
        | 0, _ => rfl
        | 1, _ => rfl,
      rfl, rfl, rfl⟩

end Sys2Proof.Tests
end

/-! # Proofs: the host's other transactions -/

namespace Sys2Proof.Machine

/-- R6: an idle block serves the host's oldest request. -/
theorem step_eq_serve {s : State} (hp : s.phase = .idle) : step s = s.serve := by
  simp [step, hp]

/-- R9: asked for SetRandomEnable, the block serves it in one step. -/
theorem step_eq_setRandomEnable {s : State} {flag : Bool} (ha : s.Asks (.setRandomEnable flag)) :
    step s = .next (s.popRequest.setRandomEnable flag) := by
  obtain ⟨hp, hr⟩ := ha
  obtain ⟨rest, hr⟩ := List.head?_eq_some_iff.1 hr
  rw [step_eq_serve hp]
  simp [State.serve, hr]

/-- A transaction that ends in a block already idle writes only the status and the answer. -/
theorem State.endTransaction_of_idle {s : State} (hp : s.phase = .idle) (st : Status) (r : Response) :
    s.endTransaction st r = { s with status := st, responses := s.responses ++ [r] } := by
  simp [State.endTransaction, hp]

/-- Settles O35: the step is SetRandomEnable on the popped queue, and ending it leaves the idle phase as it was. -/
theorem setRandomEnableWritesTheFlag : Obligations.SetRandomEnableWritesTheFlag := by
  intro s flag ha
  have hidle : { s.popRequest with randomEnable := flag }.phase = .idle := ha.1
  exact ⟨_, step_eq_setRandomEnable ha, State.endTransaction_of_idle hidle .ok .done⟩

end Sys2Proof.Machine

/-! # Proofs: the cursor -/

namespace Sys2Proof.Machine

/-- R102, R104, R143: a step in flight runs the instruction it has decoded and moves past it, or ends the Evaluate and
leaves the cursor and the counter where they are. -/
theorem step_advances_or_ends {s t : State} (hp : s.phase = .evaluating) (h : step s = .next t) :
    (t.phase = .evaluating ∧ ∃ i rest, s.fetch = .ok i rest ∧ t.pc = s.pc + i.width ∧ t.n = s.n + 1) ∨
    (t.phase = .idle ∧ t.pc = s.pc ∧ t.n = s.n) := by
  cases step_cases h with
  | wait hi _ | load _ _ _ hi _ | setRandomEnable _ _ hi _ | reseed _ hi _ | rejected _ _ _ _ _ _ _ _ hi _ _ _
  | started _ _ _ _ _ _ _ hi _ _ _ => simp [hp] at hi
  | completes i rest _ _ hf _ => exact .inl ⟨by simp [hp], i, rest, hf, by simp, by simp⟩
  | appendFails => exact .inr ⟨rfl, by simp, by simp⟩
  | badOperand | truncated | unknownTag | bytesLeft | closeFails | ends => exact .inr ⟨rfl, rfl, rfl⟩

/-- Settles O48: of the two ways a step in flight can go, the phase after it says which, and each instruction's width is
its format's (R29, R70). -/
theorem cursorOnlyAdvances : Obligations.CursorOnlyAdvances := by
  intro s t hp h
  rcases step_advances_or_ends hp h with ⟨ht, i, rest, hf, hpc, hn⟩ | ⟨ht, hend⟩
  · refine ⟨fun _ => ⟨i, rest, hf, hn, hpc.trans ?_⟩, fun hi => by simp [ht] at hi⟩
    cases i <;> rfl
  · exact ⟨fun hev => by simp [ht] at hev, fun _ => hend⟩

end Sys2Proof.Machine

/-! # Proofs: the class MalformedFile -/

namespace Sys2Proof.Machine

/-- Settles O59, by the kind of the error: the `n` is the file length that each of the three kinds records, and every other
kind is outside the class (R87). -/
theorem malformedFileIsThreeKinds : Obligations.MalformedFileIsThreeKinds := by
  intro e
  constructor
  · intro h
    cases e with
    | malformedHeader n => exact ⟨n, .inl rfl⟩
    | malformedTable n => exact ⟨n, .inr (.inl rfl)⟩
    | malformedOpcodes n => exact ⟨n, .inr (.inr rfl)⟩
    | _ => simp [TransactionError.isMalformedFile] at h
  · rintro ⟨n, rfl | rfl | rfl⟩ <;> rfl

end Sys2Proof.Machine

/-! # Proofs: the dispatcher -/

namespace Sys2Proof.Machine

/-! ## Aborts before a write -/

/-- R143: a step that aborts the Evaluate in flight ends it before anything is written. -/
theorem State.abortsInFlight_of_step_eq {s : State} {e : TransactionError} (h : step s = .next (s.abort e)) :
    s.AbortsInFlight e :=
  ⟨s.abort e, h, rfl, rfl, rfl, rfl, rfl, rfl, rfl, rfl⟩

/-- R90: the start of an Evaluate whose checks fail is the abort with the error they end with. -/
theorem State.startEvaluate_of_evaluateError {s : State} {h : Nat} {c : Circuit} {input : List Byte} {b : Int}
    {e : TransactionError} (hc : s.circuits[h]? = some c) (he : evaluateError c input b = some e) (attached : Bool)
    (draws : SinkDraws) :
    s.startEvaluate h input b attached draws = (s.accept h input draws).abortBatch b.toNat e := by
  have hcirc : (s.accept h input draws).circuit = c := State.circuit_of_getElem? hc
  simp [State.startEvaluate, hcirc, he]

/-- R90, R134: an Evaluate whose checks fail is turned away, with no record and no part of one. -/
theorem State.turnsAway_of_evaluateError {s : State} {h : Nat} {c : Circuit} {input : List Byte} {b : Int}
    {attached : Bool} {draws : SinkDraws} {e : TransactionError} (ha : s.AsksEvaluate h c input b attached draws)
    (he : evaluateError c input b = some e) : s.TurnsAway e := by
  have hc : s.popRequest.circuits[h]? = some c := ha.2
  have hstep : step s = .next ((s.popRequest.accept h input draws).abortBatch b.toNat e) := by
    rw [step_eq_start ha, State.startEvaluate_of_evaluateError hc he]
  exact ⟨_, hstep, rfl, rfl, rfl, rfl, rfl, rfl, rfl, rfl⟩

/-! ## The batch check -/

/-- R91: the batch check answers before the input and the tables are looked at. -/
theorem evaluateError_of_not_legalBatch {b : Int} (hb : ¬ legalBatch b) (c : Circuit) (input : List Byte) :
    evaluateError c input b = some (.invalidBatch b) :=
  if_pos hb

/-- Settles O24: the error of the checks is InvalidBatch whatever the circuit and the input are, and the sink is opened
only when there is none. -/
theorem batchIsCheckedFirst : Obligations.BatchIsCheckedFirst := by
  intro s h c input b attached draws ha hb
  have hillegal : ¬ legalBatch b := by
    rintro ⟨hlo, hhi⟩
    simp only [Config.maxBatch] at hhi
    omega
  exact State.turnsAway_of_evaluateError ha (evaluateError_of_not_legalBatch hillegal c input)

/-! ## The tag byte -/

/-- R97: the stream of a well-formed circuit ends at `opcodes_size`, so the bound cuts nothing off. -/
theorem State.fetchWindow_of_wf {s : State} (hw : s.circuit.wf) : s.fetchWindow = s.circuit.opcodes.drop s.pc := by
  obtain ⟨-, -, hlen, -⟩ := hw
  rw [State.fetchWindow, List.take_of_length_le hlen.le]

/-- R98, R141: a tag byte outside `TAG` is reported whatever follows it. -/
theorem decode_of_not_mem_tags {T : TagMap} {t : Byte} (ht : t ∉ T.tags) (rest : List Byte) :
    decode T (t :: rest) = .unknownTag t := by
  simp [decode, TagMap.opOf_eq_none.2 ht]

/-- R98: the fetch at a tag byte outside `TAG`. -/
theorem State.fetch_of_not_mem_tags {s : State} {t : Byte} (hw : s.circuit.wf)
    (hb : s.circuit.opcodes[s.pc]? = some t) (ht : t ∉ s.tags.tags) : s.fetch = .unknownTag t := by
  obtain ⟨hlt, hget⟩ := List.getElem?_eq_some_iff.1 hb
  rw [State.fetch, State.fetchWindow_of_wf hw, List.drop_eq_getElem_cons hlt, hget, decode_of_not_mem_tags ht]

/-- Settles O4: the fetch reports the tag, and of a step's three answers to a fetch that one is the abort. -/
theorem unknownTagsAbort : Obligations.UnknownTagsAbort := by
  intro s t hev hw hm hb ht
  have hstep : step s = .next (s.abort (.unknownOpcode s.n s.pc t)) := by
    simp [step_eq_stepInstruction hev hm, State.stepInstruction, State.fetch_of_not_mem_tags hw hb ht,
      State.abortUnknown]
  exact State.abortsInFlight_of_step_eq hstep

/-! ## The end of the run -/

/-- R104: a run whose stream was used up and whose sink, if any, closes is completed. -/
theorem State.finishEvaluate_eq_complete {s : State} (hpc : s.pc = s.circuit.header.opcodesSize.toNat)
    (hclose : (s.traceAttached && s.sink.closeFails) = false) : s.finishEvaluate = s.complete := by
  simp [State.finishEvaluate, hpc, hclose]

/-- With an Evaluate in flight the invariant says that no append has failed yet (R134). -/
theorem State.partialRecord_eq_nil_of_inv {s : State} (hp : s.phase = .evaluating) (hi : s.Inv) :
    s.partialRecord = [] := by
  obtain ⟨-, -, hev⟩ := hi
  rw [hp] at hev
  obtain ⟨-, -, -, -, -, -, -, -, -, -, -, hpart, -⟩ := hev
  exact hpart

/-- R16: the byte that holds bit i of k, in the j-th of b buffers laid end to end, lies within them. -/
theorem mul_bytesForBits_add_lt {b i j k : Nat} (hj : j < b) (hi : i < k) :
    j * bytesForBits k + i / 8 < b * bytesForBits k := by
  have hbyte : i / 8 < bytesForBits k := by
    unfold bytesForBits
    omega
  calc j * bytesForBits k + i / 8 < j * bytesForBits k + bytesForBits k := Nat.add_lt_add_left hbyte _
    _ = (j + 1) * bytesForBits k := (Nat.succ_mul _ _).symm
    _ ≤ b * bytesForBits k := Nat.mul_le_mul_right _ hj

/-- R44: a bit of a buffer is a bit of the byte that holds it. -/
theorem exists_byte_of_bufferBit {buffer : List Byte} {base i : Nat} (h : base + i / 8 < buffer.length) :
    ∃ x, buffer[base + i / 8]? = some x ∧ x.getLsbD (7 - i % 8) = bufferBit buffer base i :=
  ⟨_, List.getElem?_eq_getElem h, by rw [bufferBit, List.getD_eq_getElem _ _ h]⟩

/-- R121: the output buffer has a byte for output bit i of slot j, and in it that bit. -/
theorem exists_byte_of_unpackOutputs (c : Circuit) (serial : Nat) {b i j : Nat} (hj : j < b)
    (hi : i < c.header.outputSize.toNat) :
    ∃ x, (unpackOutputs c b serial)[j * bytesForBits c.header.outputSize.toNat + i / 8]? = some x ∧
      x.getLsbD (7 - i % 8) = outputBit c i j := by
  have hlt := mul_bytesForBits_add_lt hj hi
  rw [← unpackOutputs_length c b serial] at hlt
  rw [← bufferBit_unpackOutputs c serial hj hi]
  exact exists_byte_of_bufferBit hlt

/-- R121: an output bit is the slot's lane of the wire that the table names. -/
theorem outputBit_of_getElem? {c : Circuit} {i : Nat} {a : WireAddr} (h : c.outputAddr[i]? = some a) (j : Nat) :
    outputBit c i j = (c.ram.read a.toNat).getLsbD (ioBit j) := by
  simp [outputBit, List.getD, h]

/-- Settles O32: the step completes the run, gives the host the unpacked outputs and keeps wires and records. -/
theorem completedEvaluateGivesItsOutputBits : Obligations.CompletedEvaluateGivesItsOutputBits := by
  intro s hev hn hpc hclose
  have hm : s.moreInstructions = false := by simp [State.moreInstructions, hn]
  have hstep : step s = .next s.complete := by
    rw [step_eq_finish hev hm, State.finishEvaluate_eq_complete hpc hclose]
  refine ⟨s.complete, hstep, rfl, rfl, rfl, rfl, rfl, rfl, State.partialRecord_eq_nil_of_inv hev.1, rfl,
    unpackOutputs_length s.circuit s.b s.freeSerial, fun i j a hi hj ha => ?_⟩
  obtain ⟨x, hx, hbit⟩ := exists_byte_of_unpackOutputs s.circuit s.freeSerial hj hi
  exact ⟨x, hx, hbit.trans (outputBit_of_getElem? ha j)⟩

end Sys2Proof.Machine

/-! # Proofs: the meanings of XOR, AND, OR and NOT -/

namespace Sys2Proof.Machine

/-- R71, R99: after the tag of an operation, the fields of its format decide the rest. -/
theorem decode_tag_cons {T : TagMap} (hT : T.wf) (op : Op) (fields : List Byte) :
    decode T (T.tag op :: fields) = decodeFields op fields := by
  simp [decode, (TagMap.opOf_eq_some hT).2 rfl]

/-- R101, R102: every instruction meets the contract of its own result word and width. The reads after the write hold
because an operand that names a wire puts the current circuit in the list of circuits. -/
theorem gateContract_result (i : Instr) (s : State) : GateContract i s (i.result s) i.width := by
  intro hr
  have hcur : (i.drawFrom s).current < (i.drawFrom s).circuits.length := by
    simpa using current_lt_of_wf hr.1
  refine ⟨_, exec_of_runs hr, ?_, fun a ha => ?_, ?_⟩
  · simp [State.readWire_writeWire hcur]
  · simp [State.readWire_writeWire hcur, ha]
  · simp

/-- Settles O7: the bytes after the tag are read by format B, and the contract is that of the result word of XOR. -/
theorem xorMeaning : Obligations.XorMeaning :=
  ⟨fun _ _ _ _ _ _ _ _ hT => decode_tag_cons hT .xor _, fun d s1 s2 s => gateContract_result (.xor d s1 s2) s⟩

/-- Settles O8: the bytes after the tag are read by format B, and the contract is that of the result word of AND. -/
theorem andMeaning : Obligations.AndMeaning :=
  ⟨fun _ _ _ _ _ _ _ _ hT => decode_tag_cons hT .and _, fun d s1 s2 s => gateContract_result (.and d s1 s2) s⟩

/-- Settles O9: the bytes after the tag are read by format B, and the contract is that of the result word of OR. -/
theorem orMeaning : Obligations.OrMeaning :=
  ⟨fun _ _ _ _ _ _ _ _ hT => decode_tag_cons hT .or _, fun d s1 s2 s => gateContract_result (.or d s1 s2) s⟩

/-- Settles O10: the bytes after the tag are read by format U, and the contract is that of the result word of NOT. -/
theorem notMeaning : Obligations.NotMeaning :=
  ⟨fun _ _ _ _ _ _ hT => decode_tag_cons hT .not _, fun d s1 s => gateContract_result (.not d s1) s⟩

end Sys2Proof.Machine

/-! # Proofs: the input packing -/

namespace Sys2Proof.Machine

/-- R93, R119: the circuit of an accepted Evaluate is the one on its handle, with the packed wires. -/
theorem State.circuit_startEvaluate_of_accepts {s : State} {h : Nat} {c : Circuit} {input : List Byte} {b : Int}
    {attached : Bool} {draws : SinkDraws} (hc : s.circuits[h]? = some c) (ha : c.Accepts input b attached draws) :
    (s.startEvaluate h input b attached draws).circuit = c.packed input b.toNat := by
  obtain ⟨hlt, -⟩ := List.getElem?_eq_some_iff.1 hc
  rw [started_eq hc ha]
  exact State.circuit_of_getElem? (List.getElem?_set_self hlt)

/-- R119: lane k of the wire of input bit i holds that bit of the instance in slot `ioBit k`, and 0 if there is none. -/
theorem Circuit.getLsbD_read_packed {c : Circuit} (hnd : c.inputAddr.Nodup) {i : Nat} {a : WireAddr}
    (ha : c.inputAddr[i]? = some a) (input : List Byte) {b : Nat} (hb : b ≤ 64) (k : Nat) :
    ((c.packed input b).ram.read a.toNat).getLsbD k =
      if k < 64 ∧ ioBit k < b then bufferBit input (ioBit k * bytesForBits c.header.inputSize.toNat) i else false := by
  have hread : (c.packed input b).ram.read a.toNat =
      packWire input (bytesForBits c.header.inputSize.toNat) b i 0 := by
    rw [Circuit.packed, read_packWires _ _ _ _ _ _ hnd ha, Nat.zero_add]
    rfl
  rw [hread, getLsbD_packWire _ _ hb]
  simp

/-- R44: the bit of a buffer whose byte is known. -/
theorem bufferBit_of_getElem? {buffer : List Byte} {base i : Nat} {x : Byte} (h : buffer[base + i / 8]? = some x) :
    bufferBit buffer base i = x.getLsbD (7 - i % 8) := by
  simp [bufferBit, List.getD, h]

/-- Settles O29: the wires of the started state are the packed ones, read lane by lane; slot j is the one in lane
`ioBit j`, since the slot-to-bit map is its own inverse. -/
theorem inputPackingPlacesEveryBit : Obligations.InputPackingPlacesEveryBit := by
  intro s t h c input b attached draws ha hacc hstep i a hi
  have ⟨⟨_, hmax⟩, _, ⟨_, _, hnd⟩, _⟩ := hacc
  have hb : b.toNat ≤ 64 := Int.toNat_le.2 hmax
  have hc : s.popRequest.circuits[h]? = some c := ha.2
  obtain rfl : s.popRequest.startEvaluate h input b attached draws = t :=
    Host.Outcome.next.inj ((step_eq_start ha).symm.trans hstep)
  have hlane := Circuit.getLsbD_read_packed hnd hi input hb
  rw [← State.circuit_startEvaluate_of_accepts hc hacc] at hlane
  refine ⟨fun j x hj hx => ?_, fun k hk => ?_⟩
  · have hactive : ioBit j < 64 ∧ ioBit (ioBit j) < b.toNat :=
      ⟨ioBit_lt (hj.trans_le hb), by rwa [ioBit_ioBit]⟩
    rw [State.readWire, hlane, if_pos hactive, ioBit_ioBit]
    exact bufferBit_of_getElem? hx
  · rw [State.readWire, hlane, if_neg fun hactive => absurd hactive.2 hk.not_gt]

end Sys2Proof.Machine

/-! # Proofs: the trace width -/

namespace Sys2Proof.Machine

theorem traceWidth_of_le_eight {b : Nat} (hb : b ≤ 8) : traceWidth b = 1 := if_pos hb

theorem traceWidth_of_le_sixteen {b : Nat} (hlo : 8 < b) (hhi : b ≤ 16) : traceWidth b = 2 := by
  rw [traceWidth, if_neg hlo.not_ge, if_pos hhi]

theorem traceWidth_of_le_thirtyTwo {b : Nat} (hlo : 16 < b) (hhi : b ≤ 32) : traceWidth b = 4 := by
  have h8 : ¬ b ≤ 8 := by omega
  rw [traceWidth, if_neg h8, if_neg hlo.not_ge, if_pos hhi]

theorem traceWidth_of_thirtyTwo_lt {b : Nat} (hlo : 32 < b) : traceWidth b = 8 := by
  have h8 : ¬ b ≤ 8 := by omega
  have h16 : ¬ b ≤ 16 := by omega
  rw [traceWidth, if_neg h8, if_neg h16, if_neg hlo.not_ge]

/-- Settles O19: each range is one branch of the width. -/
theorem traceWidthByBatch : Obligations.TraceWidthByBatch := fun _ _ _ =>
  ⟨traceWidth_of_le_eight, traceWidth_of_le_sixteen, traceWidth_of_le_thirtyTwo, traceWidth_of_thirtyTwo_lt⟩

end Sys2Proof.Machine

/-! # Proofs: the decoder and the encoder -/

namespace Sys2Proof.Machine

/-! ## Decode and encode -/

/-- R65 to R68, R99: the fields of an instruction's encoding are read back as its operands. -/
theorem decodeFields_operands (i : Instr) (rest : List Byte) :
    decodeFields i.op (i.operands.flatMap encodeAddr ++ rest) = .ok i rest := by
  cases i <;>
    simp [Instr.op, Instr.operands, encodeAddr, decodeFields, decodeB, decodeU, decodeZ]

/-- Settles O2: the tag selects the operation, and its fields are read back as the operands. -/
theorem decodeInvertsEncode : Obligations.DecodeInvertsEncode := by
  intro T i rest hT
  rw [encode, List.cons_append, decode_tag_cons hT, decodeFields_operands]

/-- R64, R75: the only fields an operation reads as an instruction are the encodings of its operands. -/
theorem eq_of_decodeFields_eq_ok {op : Op} {fields rest : List Byte} {i : Instr}
    (h : decodeFields op fields = .ok i rest) : i.op = op ∧ fields = i.operands.flatMap encodeAddr ++ rest := by
  cases op <;> simp only [decodeFields, decodeB.eq_def, decodeU.eq_def, decodeZ.eq_def] at h <;> split at h <;>
    cases h <;> simp [Instr.op, Instr.operands, encodeAddr]

/-- Settles O3: a byte string that decodes begins with a tag, and the fields after it are those of the instruction. -/
theorem encodeInvertsDecode : Obligations.EncodeInvertsDecode := by
  intro T bytes i rest hT h
  cases bytes with
  | nil => simp [decode] at h
  | cons t fields =>
    cases hop : T.opOf t with
    | none => simp [decode, hop] at h
    | some op =>
      obtain rfl := (TagMap.opOf_eq_some hT).1 hop
      rw [decode_tag_cons hT] at h
      obtain ⟨rfl, hfields⟩ := eq_of_decodeFields_eq_ok h
      rw [hfields, encode, List.cons_append]

/-! ## The fetch -/

/-- R97: fewer bytes after a tag than its format asks for are no instruction. -/
theorem decodeFields_of_short {op : Op} {fields : List Byte} (h : fields.length + 1 < op.width) :
    decodeFields op fields = .truncated := by
  cases op <;> simp only [decodeFields, decodeB.eq_def, decodeU.eq_def, decodeZ.eq_def] <;> split <;>
    simp_all [Op.width, Op.format, Format.width] <;> omega

/-- R97: a truncated fetch aborts the Evaluate. -/
theorem State.abortsInFlight_of_fetch_truncated {s : State} (hev : s.Evaluating) (hm : s.moreInstructions = true)
    (hf : s.fetch = .truncated) : s.AbortsInFlight (.truncatedInstruction s.n s.pc) :=
  State.abortsInFlight_of_step_eq (by
    rw [step_eq_stepInstruction hev hm, State.stepInstruction, hf, State.abortTruncated])

/-- Settles O5: the bytes left at the cursor hold no tag, or a tag with fewer bytes than its operation asks for. -/
theorem truncatedInstructionsAbort : Obligations.TruncatedInstructionsAbort := by
  intro s hev hT hw hm
  have ⟨_, _, hlen, _⟩ := hw
  refine ⟨fun hpc => ?_, fun op htag hpc => ?_⟩ <;> refine State.abortsInFlight_of_fetch_truncated hev hm ?_
  · have hnil : s.circuit.opcodes.drop s.pc = [] := List.drop_eq_nil_of_le (by omega)
    rw [State.fetch, State.fetchWindow_of_wf hw, hnil, decode]
  · obtain ⟨hlt, hget⟩ := List.getElem?_eq_some_iff.1 htag
    rw [State.fetch, State.fetchWindow_of_wf hw, List.drop_eq_getElem_cons hlt, hget, decode_tag_cons hT]
    exact decodeFields_of_short (by rw [List.length_drop]; omega)

/-- R99, R101: the step at a fetched instruction is its meaning. -/
theorem step_eq_exec {s : State} {i : Instr} {rest : List Byte} (hev : s.Evaluating) (hm : s.moreInstructions = true)
    (hf : s.fetch = .ok i rest) : step s = exec i s := by
  rw [step_eq_stepInstruction hev hm, State.stepInstruction, hf]

/-- Settles O6: the decode is the fetch at the cursor. -/
theorem stepRunsTheDecodedInstruction : Obligations.StepRunsTheDecodedInstruction := by
  intro s i rest hev hn hdecode
  exact step_eq_exec hev (decide_eq_true hn) hdecode

/-! ## The default tags -/

/-- R73: the bytes outside the default `TAG`. -/
theorem not_mem_defaultTags_iff (t : Byte) : t ∉ defaultTags.tags ↔ 5 ≤ t.toNat := by
  simp only [TagMap.tags, defaultTags, List.mem_cons, List.not_mem_nil, or_false]
  bv_omega

/-- Settles O1: each written-out word is computed, and the tags are the bytes below 5. -/
theorem writtenOutWordsDecode : Obligations.WrittenOutWordsDecode :=
  ⟨rfl, rfl, rfl, by decide, by decide, by decide, by decide, by decide, not_mem_defaultTags_iff⟩

end Sys2Proof.Machine

/-! # Proofs: what an instruction leaves -/

namespace Sys2Proof.Machine

/-! ## The two states an instruction in range can leave -/

/-- The state after an instruction that completes (R101, R102). -/
def State.afterInstr (s : State) (i : Instr) : State :=
  (((i.drawFrom s).writeWire i.dest.toNat (i.result s)).appendRecord (i.result s)).advance i.width

/-- The state after an instruction whose trace record is not taken (R134). -/
def State.afterLostRecord (s : State) (i : Instr) : State :=
  (((i.drawFrom s).writeWire i.dest.toNat (i.result s)).leavePartialRecord (i.result s)).abort (.ioError (.append s.n))

/-- R101, R102: everything that an instruction which completes changes. -/
theorem State.afterInstr_eq (s : State) (i : Instr) :
    s.afterInstr i = { s with
      circuits := (s.writeWire i.dest.toNat (i.result s)).circuits
      randomSource := (i.drawFrom s).randomSource
      pc := s.pc + i.width, n := s.n + 1
      trace := if s.traceAttached then s.trace ++ [traceRecord s.b (i.result s)] else s.trace } := by
  cases i <;> rfl

section
variable (s : State) (i : Instr)

@[simp] theorem State.afterInstr_tags : (s.afterInstr i).tags = s.tags := by rw [State.afterInstr_eq]
@[simp] theorem State.afterInstr_randomEnable : (s.afterInstr i).randomEnable = s.randomEnable := by
  rw [State.afterInstr_eq]
@[simp] theorem State.afterInstr_phase : (s.afterInstr i).phase = s.phase := by rw [State.afterInstr_eq]
@[simp] theorem State.afterInstr_pc : (s.afterInstr i).pc = s.pc + i.width := by rw [State.afterInstr_eq]
@[simp] theorem State.afterInstr_n : (s.afterInstr i).n = s.n + 1 := by rw [State.afterInstr_eq]
@[simp] theorem State.afterInstr_b : (s.afterInstr i).b = s.b := by rw [State.afterInstr_eq]
@[simp] theorem State.afterInstr_notMask : (s.afterInstr i).notMask = s.notMask := by rw [State.afterInstr_eq]
@[simp] theorem State.afterInstr_traceAttached : (s.afterInstr i).traceAttached = s.traceAttached := by
  rw [State.afterInstr_eq]
@[simp] theorem State.afterInstr_sink : (s.afterInstr i).sink = s.sink := by rw [State.afterInstr_eq]
@[simp] theorem State.afterInstr_status : (s.afterInstr i).status = s.status := by rw [State.afterInstr_eq]
@[simp] theorem State.afterInstr_requests : (s.afterInstr i).requests = s.requests := by rw [State.afterInstr_eq]
@[simp] theorem State.afterInstr_responses : (s.afterInstr i).responses = s.responses := by rw [State.afterInstr_eq]

end

theorem exec_eq_afterInstr {i : Instr} {s : State} (h : s.Runs i) : exec i s = .next (s.afterInstr i) :=
  exec_of_runs h

theorem exec_eq_afterLostRecord {i : Instr} {s : State} (hw : i.wf s.memorySize) (hf : s.appendFails = true) :
    exec i s = .next (s.afterLostRecord i) := by
  rw [exec_eq, withOperands_of_inRange hw, State.retire_of_fails (by simpa using hf), drawFrom_n]
  rfl

/-- R100: the first operand that names no wire aborts the Evaluate. -/
theorem exec_of_firstOutOfRange {i : Instr} {s : State} {k : Nat} {x : WireAddr}
    (h : firstOutOfRange s.memorySize i.operands = some (k, x)) :
    exec i s = .next (s.abort (.operandAddressOutOfRange s.n s.pc x)) := by
  rw [exec_eq, withOperands, h]

section
variable {s : State} {i : Instr}

theorem State.circuit_afterInstr (hw : i.wf s.memorySize) :
    (s.afterInstr i).circuit = { s.circuit with ram := s.circuit.ram.write i.dest.toNat (i.result s) } := by
  have hc : (s.afterInstr i).circuit = (s.writeWire i.dest.toNat (i.result s)).circuit := by cases i <;> rfl
  rw [hc, State.circuit_writeWire (current_lt_of_wf hw)]

theorem State.readWire_afterInstr (hw : i.wf s.memorySize) (a : Nat) :
    (s.afterInstr i).readWire a = if a = i.dest.toNat then i.result s else s.readWire a := by
  rw [State.readWire, State.circuit_afterInstr hw, Memory.read_write, State.readWire]

theorem State.readWire_afterLostRecord (a : Nat) : (s.afterLostRecord i).readWire a = (s.afterInstr i).readWire a :=
  rfl

/-- R100, R101: an instruction on wires of the circuit leaves its result in its destination, and any other leaves the
wires alone; whether its record is taken makes no difference to them. -/
theorem readWire_of_exec {t : State} (h : exec i s = .next t) (a : Nat) :
    t.readWire a = if i.wf s.memorySize ∧ a = i.dest.toNat then i.result s else s.readWire a := by
  rcases exec_cases i s with ⟨x, hx, ho, he⟩ | ⟨hr, he⟩ | ⟨hw, _, he⟩ <;> rw [he] at h <;> cases h
  · have hnot : ¬ i.wf s.memorySize := fun hw => absurd (hw x hx) ho.not_gt
    simp [hnot]
  · exact (State.readWire_afterInstr hr.1 a).trans (if_congr (and_iff_right hr.1).symm rfl rfl)
  · exact (State.readWire_afterInstr hw a).trans (if_congr (and_iff_right hw).symm rfl rfl)

end

/-! ## RANDOM -/

/-- R112: a draw that was fixed in advance is the word RANDOM yields. -/
theorem State.randomResult_of_supplied {s : State} {w : Word} {rest : List Word} (he : s.randomEnable = true)
    (hs : s.randomSource.supplied = w :: rest) : s.randomResult = w := by
  simp [State.randomResult, he, RandomSource.draw, hs]

/-- R112, R116: with no draw fixed in advance RANDOM yields the free word of the sequence and the draw number. -/
theorem State.randomResult_of_not_supplied {s : State} (he : s.randomEnable = true)
    (hs : s.randomSource.supplied = []) :
    s.randomResult = Config.randomWord s.randomSource.sequence s.randomSource.drawn := by
  simp [State.randomResult, he, RandomSource.draw, hs]

theorem State.randomResult_of_disabled {s : State} (he : s.randomEnable = false) : s.randomResult = 0 := by
  simp [State.randomResult, he]

/-- R112, R50: what an instruction on wires of the circuit does to the random source, its record taken or not. -/
theorem randomSource_of_exec {i : Instr} {s t : State} (hw : i.wf s.memorySize) (h : exec i s = .next t) :
    t.randomSource = (i.drawFrom s).randomSource := by
  rcases exec_cases i s with ⟨x, hx, ho, _⟩ | ⟨_, he⟩ | ⟨_, _, he⟩
  · exact absurd (hw x hx) ho.not_gt
  all_goals
    rw [he] at h
    cases h
    rfl

theorem wf_random_iff {d : WireAddr} {memory : Nat} : (Instr.random d).wf memory ↔ d.toNat < memory := by
  simp [Instr.wf, Instr.operands]

/-- R112: a RANDOM that draws moves the source on by one draw. -/
theorem randomSource_of_exec_random {d : WireAddr} {s t : State} (he : s.randomEnable = true)
    (hd : d.toNat < s.memorySize) (h : exec (.random d) s = .next t) : t.randomSource = s.randomSource.advance := by
  rw [randomSource_of_exec (wf_random_iff.2 hd) h, Instr.drawFrom, State.consumeDraw_randomSource, if_pos he]

/-- R112: in deterministic mode RANDOM leaves the source alone, even where it aborts. -/
theorem randomSource_of_exec_random_disabled {d : WireAddr} {s t : State} (he : s.randomEnable = false)
    (h : exec (.random d) s = .next t) : t.randomSource = s.randomSource := by
  by_cases hd : d.toNat < s.memorySize
  · simp [randomSource_of_exec (wf_random_iff.2 hd) h, Instr.drawFrom, he]
  · have hout : firstOutOfRange s.memorySize (Instr.random d).operands = some (0, d) := by
      simp [Instr.operands, firstOutOfRange, hd]
    rw [exec_of_firstOutOfRange hout] at h
    cases h
    rfl

theorem gateContract_random {d : WireAddr} {s : State} {w : Word} (hw : s.randomResult = w) :
    GateContract (.random d) s w 3 :=
  hw ▸ gateContract_result (.random d) s

/-- Settles O11: the three clauses are the three forms of the result word and of the source after it; a second RANDOM
runs from a state whose flag is the same and whose source is the first one's, advanced. -/
theorem randomMeaning : Obligations.RandomMeaning := by
  refine ⟨fun T d0 d1 rest hT => decode_tag_cons hT .random _, fun d s he => ?_, fun d s w rest he hs => ?_,
    fun d s he hs => ?_, fun d d' s t he hr h => ?_⟩
  · exact ⟨gateContract_random (State.randomResult_of_disabled he), fun t => randomSource_of_exec_random_disabled he⟩
  · refine ⟨gateContract_random (State.randomResult_of_supplied he hs), fun t hd h => ?_⟩
    rw [randomSource_of_exec_random he hd h, RandomSource.advance, hs, List.tail_cons]
  · refine ⟨gateContract_random (State.randomResult_of_not_supplied he hs), fun t hd h => ?_⟩
    rw [randomSource_of_exec_random he hd h, RandomSource.advance, hs, List.tail_nil]
  · have hsource := randomSource_of_exec_random he (wf_random_iff.1 hr.1) h
    rw [exec_eq_afterInstr hr] at h
    have ht : t.randomEnable = true := by
      cases h
      exact he
    refine ⟨fun w w' rest hs => gateContract_random (State.randomResult_of_supplied ht (rest := rest) ?_),
      fun hs => gateContract_random ?_⟩
    · rw [hsource, RandomSource.advance, hs, List.tail_cons]
    · rw [State.randomResult_of_not_supplied ht (by rw [hsource, RandomSource.advance, hs, List.tail_nil]), hsource,
        RandomSource.advance]

/-! ## The frame -/

/-- Only RANDOM, and only with the flag set, moves the source. -/
theorem drawFrom_randomSource_ne {i : Instr} {s : State} (h : (i.drawFrom s).randomSource ≠ s.randomSource) :
    s.randomEnable = true ∧ ∃ d, i = .random d := by
  cases i with
  | xor | and | or | not => exact absurd rfl h
  | random d =>
    refine ⟨?_, d, rfl⟩
    by_contra he
    simp [Instr.drawFrom, he] at h

/-- Settles O12: the state after the instruction is written out, and the write of one wire is read back. -/
theorem instructionFrame : Obligations.InstructionFrame := by
  intro i s t hr h
  rw [exec_eq_afterInstr hr] at h
  obtain rfl := Host.Outcome.next.inj h
  refine ⟨?_, fun hne => ?_, fun h hh => ?_, ?_, fun a ha => ?_, ?_⟩
  · rw [State.afterInstr_eq]
  · rw [State.afterInstr_eq] at hne
    exact drawFrom_randomSource_ne hne
  · rw [State.afterInstr_eq]
    exact State.set_getElem?_other hh _
  · rw [State.circuit_afterInstr hr.1]
  · rw [State.readWire_afterInstr hr.1, if_neg ha]
  · rw [State.afterInstr_eq]
    cases s.traceAttached
    · exact ⟨[], (List.append_nil _).symm⟩
    · exact ⟨_, rfl⟩

/-- Settles O13: the operand named is the first that the check finds. -/
theorem operandsAreCheckedInOrder : Obligations.OperandsAreCheckedInOrder := by
  intro i s k x hx ho hbefore
  have hfirst : firstOutOfRange s.memorySize i.operands = some (k, x) := firstOutOfRange_eq_some.2 ⟨hx, ho, hbefore⟩
  exact ⟨_, exec_of_firstOutOfRange hfirst, rfl, rfl, rfl, rfl, rfl⟩

/-! ## NOT -/

/-- R31: with an Evaluate in flight the mask has exactly the lanes of the batch. -/
theorem State.getLsbD_notMask_of_inv {s : State} (hp : s.phase = .evaluating) (hi : s.Inv) (k : Nat) :
    s.notMask.getLsbD k = (decide (k < 64) && decide (ioBit k < s.b)) := by
  obtain ⟨-, -, hev⟩ := hi
  rw [hp] at hev
  obtain ⟨-, -, -, hmask, -⟩ := hev
  rw [hmask, getLsbD_notMaskOf]

/-- Settles O14: the result is the source with the mask's lanes inverted, and the mask is that of the batch. -/
theorem notInvertsExactlyTheActiveLanes : Obligations.NotInvertsExactlyTheActiveLanes := by
  intro d s1 s t hp hi hr h k hk
  have hread : t.readWire d.toNat = s.notMask ^^^ s.readWire s1.toNat := by
    rw [readWire_of_exec h, if_pos ⟨hr.1, rfl⟩, Instr.result]
  rw [hread, BitVec.getLsbD_xor, State.getLsbD_notMask_of_inv hp hi]
  by_cases hb : ioBit k < s.b <;> simp [hk, hb]

/-- Settles O15: the mask is the same both times, and inverting its lanes twice is the identity. -/
theorem notTwiceGivesTheOriginalWord : Obligations.NotTwiceGivesTheOriginalWord := by
  intro d s1 s t u hr h hr' h'
  have hmask : t.notMask = s.notMask := by
    rw [exec_eq_afterInstr hr] at h
    cases h
    exact State.afterInstr_notMask s _
  calc u.readWire d.toNat = t.notMask ^^^ t.readWire d.toNat := by
        rw [readWire_of_exec h', if_pos ⟨hr'.1, rfl⟩, Instr.result]
    _ = s.notMask ^^^ (s.notMask ^^^ s.readWire s1.toNat) := by
        rw [readWire_of_exec h, if_pos ⟨hr.1, rfl⟩, Instr.result, hmask]
    _ = s.readWire s1.toNat := by rw [← BitVec.xor_assoc, BitVec.xor_self, BitVec.zero_xor]

/-! ## Lanes -/

/-- R114: lane k of a result word depends on lane k of the wires only, whatever else two states share. -/
theorem getLsbD_result_congr {s s' : State} {k k' : Nat} (i : Instr)
    (hw : ∀ a, (s'.readWire a).getLsbD k' = (s.readWire a).getLsbD k)
    (hm : s'.notMask.getLsbD k' = s.notMask.getLsbD k)
    (hr : i.op = .random → s'.randomResult.getLsbD k' = s.randomResult.getLsbD k) :
    (i.result s').getLsbD k' = (i.result s).getLsbD k := by
  cases i with
  | xor | and | or | not => simp [Instr.result, hw, hm]
  | random => exact hr rfl

/-- Settles O16: the wires after an instruction are the old ones but for the result word, lane by lane. -/
theorem lanesAreIndependent : Obligations.LanesAreIndependent := by
  intro i s t t' m k hm h h' a
  by_cases hcur : s.current < s.circuits.length
  · have hwires : ∀ a, ((s.setRam m).readWire a).getLsbD k = (s.readWire a).getLsbD k := fun a => by
      rw [State.readWire_setRam m hcur, hm]
    rw [readWire_of_exec h, readWire_of_exec h', State.setRam_memorySize]
    split
    · exact getLsbD_result_congr i hwires rfl fun _ => rfl
    · exact hwires a
  · rw [State.setRam_of_not_lt m hcur, h] at h'
    cases h'
    rfl

end Sys2Proof.Machine

/-! # Proofs: the invariant -/

namespace Sys2Proof.Machine

/-! ## Everything a step in flight can do -/

/-- R143: what a lost record's abort leaves beside the write of its instruction. -/
theorem State.afterLostRecord_eq (s : State) (i : Instr) :
    s.afterLostRecord i = { s with
      circuits := (s.writeWire i.dest.toNat (i.result s)).circuits
      randomSource := (i.drawFrom s).randomSource
      status := .fault (.ioError (.append s.n)), phase := .idle, sinkOpen := false
      partialRecord := (traceRecord s.b (i.result s)).take (Config.partialRecordLength s.freeSerial)
      output := (s.afterLostRecord i).output
      responses := s.responses ++ [.evaluated (.fault (.ioError (.append s.n))) (s.afterLostRecord i).output s.trace
        ((traceRecord s.b (i.result s)).take (Config.partialRecordLength s.freeSerial))]
      freeSerial := s.freeSerial + 2 } := by
  cases i <;> rfl

/-- What a step of an Evaluate in flight has done: aborted before a write, run an instruction, aborted after its write,
or completed the Evaluate. -/
inductive FlightCase (s : State) : State → Prop where
  | aborts (e : TransactionError) : FlightCase s (s.abort e)
  | completes (i : Instr) (rest : List Byte) (hm : s.moreInstructions = true) (hf : s.fetch = .ok i rest)
      (hr : s.Runs i) : FlightCase s (s.afterInstr i)
  | losesRecord (i : Instr) (rest : List Byte) (hm : s.moreInstructions = true) (hf : s.fetch = .ok i rest)
      (hw : i.wf s.memorySize) : FlightCase s (s.afterLostRecord i)
  | ends (hm : s.moreInstructions = false) : FlightCase s s.complete

/-- A step with an Evaluate in flight is on a loaded circuit and is one of the four cases. -/
theorem flight_cases {s t : State} (hp : s.phase = .evaluating) (h : step s = .next t) :
    s.Evaluating ∧ FlightCase s t := by
  cases step_cases h with
  | wait hi _ | load _ _ _ hi _ | setRandomEnable _ _ hi _ | reseed _ hi _ | rejected _ _ _ _ _ _ _ _ hi _ _ _
  | started _ _ _ _ _ _ _ hi _ _ _ => simp [hp] at hi
  | badOperand _ _ _ hev | truncated hev | unknownTag _ hev | bytesLeft hev | closeFails hev => exact ⟨hev, .aborts _⟩
  | completes i rest hev hm hf hr => exact ⟨hev, .completes i rest hm hf hr⟩
  | appendFails i rest hev hm hf hw _ => exact ⟨hev, .losesRecord i rest hm hf hw⟩
  | ends hev hm => exact ⟨hev, .ends hm⟩

/-- R94: what no step in flight writes: `TAG`, `random_enable`, the registers that the start has latched, the input
buffer, the host's draws and its requests. -/
theorem flight_frame {s t : State} (hp : s.phase = .evaluating) (h : step s = .next t) :
    t = { s with
      randomSource := t.randomSource, circuits := t.circuits, phase := t.phase, pc := t.pc, n := t.n
      sinkOpen := t.sinkOpen, trace := t.trace, partialRecord := t.partialRecord, output := t.output
      status := t.status, responses := t.responses, freeSerial := t.freeSerial } := by
  obtain ⟨-, hcase⟩ := flight_cases hp h
  cases hcase with
  | aborts | ends => rfl
  | completes i => rw [State.afterInstr_eq]
  | losesRecord i => rw [State.afterLostRecord_eq]

/-! ## Circuits -/

/-- A circuit stays well formed when its wires take another canonical memory of its size. -/
theorem Circuit.wf_of_ram {c : Circuit} (hc : c.wf) {m : Memory} (hm : m.wf)
    (hb : ∀ cell ∈ m, cell.1 < c.header.memory.toNat) : ({ c with ram := m } : Circuit).wf := by
  obtain ⟨hin, hout, hops, -, -⟩ := hc
  exact ⟨hin, hout, hops, hm, hb⟩

/-- R50: a write of a wire keeps every circuit well formed. -/
theorem State.wf_circuits_writeWire {s : State} (hs : ∀ c ∈ s.circuits, c.wf) {a : Nat} (ha : a < s.memorySize)
    (v : Word) : ∀ c ∈ (s.writeWire a v).circuits, c.wf := by
  intro c hc
  rcases List.mem_or_eq_of_mem_set hc with hc | rfl
  · exact hs c hc
  · have hwf := hs s.circuit (State.circuit_mem (State.current_lt_of_lt_memorySize ha))
    have ⟨_, _, _, hram, hbelow⟩ := hwf
    exact Circuit.wf_of_ram hwf (Memory.write_wf hram _ _) (Memory.write_below _ hbelow ha)

/-- R93, R119: the wires an accepted Evaluate starts with are a canonical memory of the circuit. -/
theorem Circuit.wf_packed {c : Circuit} (hc : c.wf) (hin : ∀ a ∈ c.inputAddr, a.toNat < c.header.memory.toNat)
    (input : List Byte) (b : Nat) : (c.packed input b).wf := by
  obtain ⟨hm, hb⟩ := packWires_wf input (bytesForBits c.header.inputSize.toNat) b 0 c.inputAddr hin Memory.wf_nil
    (by simp)
  exact Circuit.wf_of_ram hc hm hb

/-! ## The parts of the invariant -/

/-- With the block idle the invariant asks nothing of an Evaluate. -/
theorem State.inv_of_idle {s : State} (hT : s.tags.wf) (hs : ∀ c ∈ s.circuits, c.wf) (hp : s.phase = .idle)
    (ho : s.sinkOpen = false) : s.Inv :=
  ⟨hT, hs, by rw [hp]; exact ho⟩

theorem State.inv_of_evaluating {s : State} (hT : s.tags.wf) (hs : ∀ c ∈ s.circuits, c.wf)
    (hp : s.phase = .evaluating) (hev : s.evaluatingInv) : s.Inv :=
  ⟨hT, hs, by rw [hp]; exact hev⟩

theorem State.evaluatingInv_of_inv {s : State} (hp : s.phase = .evaluating) (hi : s.Inv) : s.evaluatingInv := by
  obtain ⟨-, -, hev⟩ := hi
  rwa [hp] at hev

theorem State.sinkOpen_of_inv {s : State} (hp : s.phase = .idle) (hi : s.Inv) : s.sinkOpen = false := by
  obtain ⟨-, -, ho⟩ := hi
  rwa [hp] at ho

/-- R65 to R67: every format has a tag byte. -/
theorem width_pos (i : Instr) : 0 < i.width := by
  cases i <;> exact Nat.succ_pos _

/-- R97, R102: a fetched instruction lies in the stream, so that the cursor stays in it. -/
theorem State.pc_add_width_le_of_fetch {s : State} {i : Instr} {rest : List Byte} (hf : s.fetch = .ok i rest) :
    s.pc + i.width ≤ s.circuit.header.opcodesSize.toNat := by
  have hlen := decode_ok_length hf
  have hpos := width_pos i
  rw [State.fetchWindow, List.length_drop, List.length_take] at hlen
  omega

theorem State.traceInv_iff {s : State} :
    s.traceInv ↔ (s.traceAttached = true → s.trace.length = s.n ∧ ∀ r ∈ s.trace, r.length = traceWidth s.b) ∧
      (s.traceAttached = false → s.trace = []) := by
  cases h : s.traceAttached <;> simp [State.traceInv, h]

/-- R128, R129: an instruction that completes adds its one record, or none without a sink. -/
theorem State.traceInv_afterInstr {s : State} (ht : s.traceInv) (i : Instr) : (s.afterInstr i).traceInv := by
  rw [State.traceInv_iff] at ht
  obtain ⟨hon, hoff⟩ := ht
  rw [State.afterInstr_eq, State.traceInv_iff]
  refine ⟨fun ha => ?_, fun ha => ?_⟩
  · obtain ⟨hlen, hrec⟩ := hon ha
    have ha' : s.traceAttached = true := ha
    refine ⟨by simp [ha', hlen], fun r hr => ?_⟩
    simp only [ha', if_true, List.mem_append, List.mem_singleton] at hr
    rcases hr with hr | rfl
    · exact hrec r hr
    · exact traceRecord_length _ _
  · have ha' : s.traceAttached = false := ha
    simpa [ha'] using hoff ha'

/-! ## The steps -/

/-- R101, R102: an instruction that completes keeps what an Evaluate in flight keeps. -/
theorem State.evaluatingInv_afterInstr {s : State} {i : Instr} {rest : List Byte} (hev : s.evaluatingInv)
    (hm : s.moreInstructions = true) (hf : s.fetch = .ok i rest) (hw : i.wf s.memorySize) :
    (s.afterInstr i).evaluatingInv := by
  have hpc := State.pc_add_width_le_of_fetch hf
  have hn : s.n < s.circuit.header.numOpcodes.toNat := of_decide_eq_true hm
  have hcirc := State.circuit_afterInstr hw
  obtain ⟨hcur, hb, hb', hmask, -, -, hin, hout, hnd, hlen, hst, hpart, ho, ht⟩ := hev
  have htrace := State.traceInv_afterInstr ht i
  unfold State.evaluatingInv State.memorySize
  rw [hcirc]
  rw [State.afterInstr_eq] at htrace ⊢
  exact ⟨by simpa using hcur, hb, hb', hmask, hn, hpc, hin, hout, hnd, hlen, hst, hpart, ho, htrace⟩

/-- R90 to R95, R131: an accepted Evaluate starts with what an Evaluate in flight keeps. -/
theorem State.inv_startEvaluate {s : State} {h : Nat} {c : Circuit} {input : List Byte} {batch : Int}
    {attached : Bool} {draws : SinkDraws} (hT : s.tags.wf) (hs : ∀ c ∈ s.circuits, c.wf)
    (hc : s.circuits[h]? = some c) (ha : c.Accepts input batch attached draws) :
    (s.startEvaluate h input batch attached draws).Inv := by
  obtain ⟨hlt, -⟩ := List.getElem?_eq_some_iff.1 hc
  have hcirc := State.circuit_startEvaluate_of_accepts hc ha
  have ⟨⟨hlo, hhi⟩, hlen, ⟨hin, hout, hnd⟩, _⟩ := ha
  have hwf : ∀ c' ∈ s.circuits.set h (c.packed input batch.toNat), c'.wf := fun c' hc' => by
    rcases List.mem_or_eq_of_mem_set hc' with hc' | rfl
    · exact hs c' hc'
    · exact Circuit.wf_packed (hs c (List.mem_of_getElem? hc)) hin input _
  rw [started_eq hc ha] at hcirc ⊢
  refine State.inv_of_evaluating hT hwf rfl ?_
  unfold State.evaluatingInv State.memorySize
  rw [hcirc]
  have hlo' : 1 ≤ batch.toNat := by omega
  exact ⟨by simpa using hlt, hlo', Int.toNat_le.2 hhi, rfl, Nat.zero_le _, Nat.zero_le _, hin, hout, hnd, hlen, rfl,
    rfl, rfl, State.traceInv_iff.2 ⟨fun _ => ⟨rfl, by simp⟩, fun _ => rfl⟩⟩

/-- R78, R88: a Load, failed or not, leaves well-formed circuits. -/
theorem State.wf_circuits_load {s : State} (hs : ∀ c ∈ s.circuits, c.wf) (file : List Byte) (draws : AllocDraws) :
    ∀ c ∈ (s.load file draws).circuits, c.wf := by
  unfold State.load
  split
  · exact hs
  · rename_i hload
    intro c hc
    rcases List.mem_append.1 hc with hc | hc
    · exact hs c hc
    · rw [List.mem_singleton.1 hc]
      exact parseCircuit_wf _ hload

/-- A Load writes neither `TAG` nor the sink, and leaves the block idle. -/
theorem State.load_fields (s : State) (file : List Byte) (draws : AllocDraws) :
    (s.load file draws).tags = s.tags ∧ (s.load file draws).phase = .idle ∧
      (s.load file draws).sinkOpen = s.sinkOpen := by
  unfold State.load
  split <;> exact ⟨rfl, rfl, rfl⟩

/-- Settles O44, by the cases of a step: all but three leave the block idle with the sink closed, and the circuits
change only by a Load and by writes of wires. -/
theorem stepKeepsTheInvariant : Obligations.StepKeepsTheInvariant := by
  intro s t hi h
  have ⟨hT, hs, _⟩ := hi
  cases step_cases h with
  | wait => exact hi
  | load file draws rest hp hr =>
    obtain ⟨htags, hphase, hsink⟩ := s.popRequest.load_fields file draws
    exact State.inv_of_idle (htags ▸ hT) (State.wf_circuits_load (s := s.popRequest) hs file draws) hphase
      (hsink.trans (State.sinkOpen_of_inv hp hi))
  | setRandomEnable _ _ hp _ | reseed _ hp _ =>
    have ho := State.sinkOpen_of_inv hp hi
    exact State.inv_of_idle hT hs rfl ho
  | started h c input batch attached draws rest hp hr hc ha =>
    exact State.inv_startEvaluate (s := s.popRequest) hT hs hc ha
  | rejected | badOperand | truncated | unknownTag | bytesLeft | closeFails | ends =>
    exact State.inv_of_idle hT hs rfl rfl
  | completes i rest hev hm hf hr =>
    change (s.afterInstr i).Inv
    have hkept := State.evaluatingInv_afterInstr (State.evaluatingInv_of_inv hev.1 hi) hm hf hr.1
    have hwf := State.wf_circuits_writeWire hs (hr.1 _ (dest_mem_operands i)) (i.result s)
    rw [State.afterInstr_eq] at hkept ⊢
    exact State.inv_of_evaluating hT hwf hev.1 hkept
  | appendFails i rest hev hm hf hw =>
    change (s.afterLostRecord i).Inv
    have hwf := State.wf_circuits_writeWire hs (hw _ (dest_mem_operands i)) (i.result s)
    rw [State.afterLostRecord_eq]
    exact State.inv_of_idle hT hwf rfl rfl

/-- Settles O43: at reset `TAG` is the default one, there is no circuit and the sink is closed. -/
theorem resetHasTheInvariant : Obligations.ResetHasTheInvariant :=
  State.inv_of_idle (show defaultTags.wf by decide) (by simp [State.reset]) rfl rfl

/-- Settles O45: idle, a step stops only at an Evaluate whose handle has no circuit; in flight the invariant says that
there is a circuit. -/
theorem onlyAnUnknownHandleStopsTheMachine : Obligations.OnlyAnUnknownHandleStopsTheMachine := by
  intro s hi
  cases hp : s.phase with
  | evaluating =>
    obtain ⟨hcur, -⟩ := State.evaluatingInv_of_inv hp hi
    exact .inl (step_next_of_evaluating ⟨hp, hcur⟩)
  | idle =>
    rw [step_eq_serve hp]
    unfold State.serve
    split
    · exact .inl ⟨_, rfl⟩
    · exact .inl ⟨_, rfl⟩
    · exact .inl ⟨_, rfl⟩
    · exact .inl ⟨_, rfl⟩
    · rename_i h input b attached draws rest hr
      split
      · exact .inl ⟨_, rfl⟩
      · rename_i hlt
        exact .inr ⟨h, input, b, attached, draws, ⟨hp, by rw [hr]; rfl⟩, Nat.le_of_not_lt hlt, rfl⟩

/-! ## Inactive lanes -/

/-- R115: lanes without a slot of the batch are 0 in every wire an Evaluate starts with. -/
theorem Circuit.getLsbD_read_packed_of_inactive {c : Circuit} (hnd : c.inputAddr.Nodup) (input : List Byte) {b : Nat}
    (hb : b ≤ 64) {k : Nat} (hk : (notMaskOf b).getLsbD k = false) (a : Nat) :
    ((c.packed input b).ram.read a).getLsbD k = false := by
  by_cases hx : ∃ x ∈ c.inputAddr, x.toNat = a
  · obtain ⟨x, hx, rfl⟩ := hx
    obtain ⟨i, hi⟩ := List.mem_iff_getElem?.1 hx
    have hinactive : ¬ (k < 64 ∧ ioBit k < b) := by simpa [getLsbD_notMaskOf] using hk
    rw [Circuit.getLsbD_read_packed hnd hi input hb, if_neg hinactive]
  · push Not at hx
    rw [Circuit.packed, read_packWires_other _ _ _ _ _ _ hx]
    exact BitVec.getLsbD_zero

/-- R115: a result word has no inactive lane set, unless it is a draw. -/
theorem State.getLsbD_result_of_inactive {s : State} (hz : s.inactiveLanesZero) {i : Instr}
    (hr : s.randomEnable = false ∨ i.op ≠ .random) {k : Nat} (hk : s.notMask.getLsbD k = false) :
    (i.result s).getLsbD k = false := by
  cases i with
  | xor | and | or | not => simp [Instr.result, hz _ k hk, hk]
  | random d =>
    obtain he | hne := hr
    · rw [Instr.result, State.randomResult_of_disabled he]
      exact BitVec.getLsbD_zero
    · exact absurd rfl hne

/-- R115: an instruction on wires of the circuit, unless it draws, keeps the inactive lanes 0. -/
theorem State.inactiveLanesZero_afterInstr {s : State} (hz : s.inactiveLanesZero) {i : Instr}
    (hw : i.wf s.memorySize) (hr : s.randomEnable = false ∨ i.op ≠ .random) : (s.afterInstr i).inactiveLanesZero := by
  intro a k hk
  rw [State.afterInstr_notMask] at hk
  rw [State.readWire_afterInstr hw]
  split
  · exact State.getLsbD_result_of_inactive hz hr hk
  · exact hz a k hk

/-- Settles O55: the packed wires have the inactive lanes 0, and of the steps in flight only an instruction writes a
wire. -/
theorem inactiveLanesStayZero : Obligations.InactiveLanesStayZero := by
  refine ⟨fun s t h c input b attached draws ha hacc hstep => ?_, fun s t hp hz hr hstep => ?_⟩
  · have ⟨⟨_, hmax⟩, _, ⟨_, _, hnd⟩, _⟩ := hacc
    have hc : s.popRequest.circuits[h]? = some c := ha.2
    obtain rfl : s.popRequest.startEvaluate h input b attached draws = t :=
      Host.Outcome.next.inj ((step_eq_start ha).symm.trans hstep)
    intro a k hk
    rw [State.readWire, State.circuit_startEvaluate_of_accepts hc hacc]
    rw [started_eq hc hacc] at hk
    exact Circuit.getLsbD_read_packed_of_inactive hnd input (Int.toNat_le.2 hmax) hk a
  · have hop : ∀ i rest, s.fetch = .ok i rest → s.randomEnable = false ∨ i.op ≠ .random := fun i rest hf => by
      refine hr.imp_right fun hne hop => ?_
      cases i with
      | random d => exact hne d rest hf
      | _ => cases hop
    obtain ⟨-, hcase⟩ := flight_cases hp hstep
    cases hcase with
    | aborts | ends => exact hz
    | completes i rest hm hf hi => exact State.inactiveLanesZero_afterInstr hz hi.1 (hop i rest hf)
    | losesRecord i rest hm hf hw =>
      intro a k hk
      rw [State.afterLostRecord_eq] at hk
      exact State.inactiveLanesZero_afterInstr hz hw (hop i rest hf) a k ((State.afterInstr_notMask s i).symm ▸ hk)

end Sys2Proof.Machine

/-! # Proofs: changes of a state that a step in flight does not see -/

namespace Sys2Proof.Machine

@[simp] theorem State.afterLostRecord_status (s : State) (i : Instr) :
    (s.afterLostRecord i).status = .fault (.ioError (.append s.n)) := rfl

/-- A change f of a state that the dispatch loop does not see: it changes none of the fields the loop reads, an
instruction that completes carries f along, and an abort carries g along. -/
structure State.Unseen (f g : State → State) (s : State) : Prop where
  frame : f s = { s with
    randomSource := (f s).randomSource, sink := { s.sink with closeFails := (f s).sink.closeFails }
    input := (f s).input, output := (f s).output, responses := (f s).responses }
  abort : ∀ e, (f s).abort e = g (s.abort e)
  afterInstr : ∀ i, (f s).afterInstr i = f (s.afterInstr i)
  afterLostRecord : ∀ i, (f s).afterLostRecord i = g (s.afterLostRecord i)

/-- What f makes of a state an Evaluate goes on from, and g of one it has ended in. -/
def State.carry (f g : State → State) (t : State) : State :=
  match t.phase with
  | .evaluating => f t
  | .idle => g t

theorem State.carry_of_evaluating {f g : State → State} {t : State} (hp : t.phase = .evaluating) :
    State.carry f g t = f t := by
  simp [State.carry, hp]

theorem State.carry_of_idle {f g : State → State} {t : State} (hp : t.phase = .idle) : State.carry f g t = g t := by
  simp [State.carry, hp]

theorem State.carry_abort {f g : State → State} (s : State) (e : TransactionError) :
    State.carry f g (s.abort e) = g (s.abort e) :=
  State.carry_of_idle rfl

theorem State.carry_self (f : State → State) (t : State) : State.carry f f t = f t := by
  unfold State.carry
  split <;> rfl

namespace State.Unseen

variable {f g : State → State} {s t : State}

theorem n (hu : State.Unseen f g s) : (f s).n = s.n := (congrArg State.n hu.frame :)

theorem pc (hu : State.Unseen f g s) : (f s).pc = s.pc := (congrArg State.pc hu.frame :)

theorem traceAttached (hu : State.Unseen f g s) : (f s).traceAttached = s.traceAttached :=
  (congrArg State.traceAttached hu.frame :)

theorem circuit (hu : State.Unseen f g s) : (f s).circuit = s.circuit := (congrArg State.circuit hu.frame :)

theorem memorySize (hu : State.Unseen f g s) : (f s).memorySize = s.memorySize := (congrArg State.memorySize hu.frame :)

theorem appendFails (hu : State.Unseen f g s) : (f s).appendFails = s.appendFails :=
  (congrArg State.appendFails hu.frame :)

theorem fetch (hu : State.Unseen f g s) : (f s).fetch = s.fetch := (congrArg State.fetch hu.frame :)

theorem moreInstructions (hu : State.Unseen f g s) : (f s).moreInstructions = s.moreInstructions :=
  (congrArg State.moreInstructions hu.frame :)

theorem evaluating (hu : State.Unseen f g s) (hev : s.Evaluating) : (f s).Evaluating := by
  rw [hu.frame]
  exact hev

/-- An instruction ends alike, and carries the change along. -/
theorem exec (hu : State.Unseen f g s) (hp : s.phase = .evaluating) {i : Instr} (h : exec i s = .next t) :
    Machine.exec i (f s) = .next (State.carry f g t) := by
  cases hout : firstOutOfRange s.memorySize i.operands with
  | some bad =>
    have hout' : firstOutOfRange (f s).memorySize i.operands = some (bad.1, bad.2) := hu.memorySize ▸ hout
    rw [exec_of_firstOutOfRange hout] at h
    cases h
    rw [exec_of_firstOutOfRange hout', hu.abort, hu.n, hu.pc, State.carry_abort]
  | none =>
    have hw : i.wf s.memorySize := firstOutOfRange_eq_none.1 hout
    have hw' : i.wf (f s).memorySize := hu.memorySize ▸ hw
    cases ha : s.appendFails with
    | true =>
      rw [exec_eq_afterLostRecord hw ha] at h
      cases h
      rw [exec_eq_afterLostRecord hw' (hu.appendFails.trans ha), hu.afterLostRecord, State.carry_of_idle rfl]
    | false =>
      rw [exec_eq_afterInstr ⟨hw, ha⟩] at h
      cases h
      rw [exec_eq_afterInstr ⟨hw', hu.appendFails.trans ha⟩, hu.afterInstr,
        State.carry_of_evaluating (by simpa using hp)]

/-- A step with an instruction left goes alike, and carries the change along. -/
theorem step_of_more (hu : State.Unseen f g s) (hev : s.Evaluating) (hm : s.moreInstructions = true)
    (h : step s = .next t) : step (f s) = .next (State.carry f g t) := by
  rw [step_eq_stepInstruction hev hm, State.stepInstruction] at h
  rw [step_eq_stepInstruction (hu.evaluating hev) (hu.moreInstructions.trans hm), State.stepInstruction, hu.fetch]
  cases hf : s.fetch with
  | ok i rest =>
    rw [hf] at h
    exact hu.exec hev.1 h
  | truncated =>
    rw [hf] at h
    cases h
    simp only [State.abortTruncated, hu.abort, hu.n, hu.pc, State.carry_abort]
  | unknownTag tag =>
    rw [hf] at h
    cases h
    simp only [State.abortUnknown, hu.abort, hu.n, hu.pc, State.carry_abort]

/-- The end of the run goes alike when the close of the sink does. -/
theorem finishEvaluate (hu : State.Unseen f g s) (hclose : (f s).sink.closeFails = s.sink.closeFails)
    (hcomplete : (f s).complete = g s.complete) : (f s).finishEvaluate = g s.finishEvaluate := by
  rw [State.finishEvaluate, State.finishEvaluate, hu.pc, hu.circuit, hu.traceAttached, hclose, hcomplete, hu.abort,
    hu.abort]
  split
  · rfl
  · split <;> rfl

/-- A step in flight goes alike, and carries the change along. -/
theorem step (hu : State.Unseen f g s) (hclose : (f s).sink.closeFails = s.sink.closeFails)
    (hcomplete : (f s).complete = g s.complete) (hp : s.phase = .evaluating) (h : step s = .next t) :
    Machine.step (f s) = .next (State.carry f g t) := by
  obtain ⟨hev, hcase⟩ := flight_cases hp h
  cases hm : s.moreInstructions with
  | true => exact hu.step_of_more hev hm h
  | false =>
    rw [step_eq_finish hev hm] at h
    obtain rfl := Host.Outcome.next.inj h
    have hidle : s.finishEvaluate.phase = .idle := by
      unfold State.finishEvaluate
      split
      · rfl
      · split <;> rfl
    rw [step_eq_finish (hu.evaluating hev) (hu.moreInstructions.trans hm), hu.finishEvaluate hclose hcomplete,
      State.carry_of_idle hidle]

end State.Unseen

/-! ## The input buffer and the random source -/

/-- The machine with another input buffer. -/
def State.withInput (input : List Byte) (s : State) : State := { s with input := input }

/-- R41: no step in flight reads the input buffer. -/
theorem State.unseen_withInput (input : List Byte) (s : State) :
    State.Unseen (State.withInput input) (State.withInput input) s where
  frame := rfl
  abort _ := rfl
  afterInstr i := by cases i <;> rfl
  afterLostRecord i := by cases i <;> rfl

/-- The machine with another random source. -/
def State.withSource (source : RandomSource) (s : State) : State := { s with randomSource := source }

/-- R112: with `random_enable` false no instruction draws, so the source is kept. -/
theorem State.drawFrom_of_disabled {s : State} (he : s.randomEnable = false) (i : Instr) : i.drawFrom s = s := by
  cases i with
  | xor | and | or | not => rfl
  | random => rw [Instr.drawFrom, State.consumeDraw, if_neg (by simp [he])]

/-- R112: with `random_enable` false a result word does not depend on the random source. -/
theorem State.result_withSource {s : State} (he : s.randomEnable = false) (source : RandomSource) (i : Instr) :
    i.result (s.withSource source) = i.result s := by
  cases i with
  | xor | and | or | not => rfl
  | random =>
    have he' : (s.withSource source).randomEnable = false := he
    rw [Instr.result, Instr.result, State.randomResult_of_disabled he, State.randomResult_of_disabled he']

/-- R112: no step in flight reads the random source with `random_enable` false. -/
theorem State.unseen_withSource (source : RandomSource) {s : State} (he : s.randomEnable = false) :
    State.Unseen (State.withSource source) (State.withSource source) s where
  frame := rfl
  abort _ := rfl
  afterInstr i := by
    have he' : (s.withSource source).randomEnable = false := he
    rw [State.afterInstr, State.afterInstr, State.drawFrom_of_disabled he, State.drawFrom_of_disabled he',
      State.result_withSource he]
    rfl
  afterLostRecord i := by
    have he' : (s.withSource source).randomEnable = false := he
    rw [State.afterLostRecord, State.afterLostRecord, State.drawFrom_of_disabled he, State.drawFrom_of_disabled he',
      State.result_withSource he]
    rfl

/-- Settles O54: the random source is a part of the state that no step in flight sees with `random_enable` false. -/
theorem deterministicModeIgnoresTheSource : Obligations.DeterministicModeIgnoresTheSource := by
  intro s t source hp he h
  have hstep := (State.unseen_withSource source he).step rfl rfl hp h
  rwa [State.carry_self] at hstep

/-! ## The close of the sink -/

/-- The machine with another draw for the close of the sink. -/
def State.withClose (fails : Bool) (s : State) : State := { s with sink := { s.sink with closeFails := fails } }

/-- R132: before the end of the run nothing depends on whether the close will fail. -/
theorem State.unseen_withClose (fails : Bool) (s : State) :
    State.Unseen (State.withClose fails) (State.withClose fails) s where
  frame := rfl
  abort _ := rfl
  afterInstr i := by cases i <;> rfl
  afterLostRecord i := by cases i <;> rfl

/-! ## The output buffer and the responses -/

/-- The machine with other earlier answers to the host. -/
def State.withAnswers (output : List Byte) (responses : List Response) (s : State) : State :=
  { s with output := output, responses := responses }

/-- What the host gets back from an Evaluate that has ended in this state (R105). -/
def State.answer (t : State) : Response := .evaluated t.status t.output t.trace t.partialRecord

/-- The machine that has given these responses and then the answer of this Evaluate. -/
def State.answerAfter (responses : List Response) (t : State) : State :=
  { t with responses := responses ++ [t.answer] }

/-- R41, R105: no step in flight reads the earlier answers. -/
theorem State.unseen_withAnswers (output : List Byte) (responses : List Response) (s : State) :
    State.Unseen (State.withAnswers output responses) (State.answerAfter responses) s where
  frame := rfl
  abort _ := rfl
  afterInstr i := by cases i <;> rfl
  afterLostRecord i := by cases i <;> rfl

end Sys2Proof.Machine

/-! # Proofs: the batch, the mask and the trace -/

namespace Sys2Proof.Machine

/-! ## The slot-to-bit map -/

/-- R118: a slot and its bit lie in the same byte. -/
theorem ioBit_div (j : Nat) : ioBit j / 8 = j / 8 := by
  unfold ioBit
  omega

/-- R118: a slot of a batch of b has its bit in the bytes that hold b bits. -/
theorem ioBit_lt_of_lt {b j : Nat} (hj : j < b) : ioBit j < 8 * bytesForBits b := by
  unfold ioBit bytesForBits
  omega

/-- Settles O17: each clause is a law of the map, or computed for the first byte. -/
theorem slotToBitMapIsAnInvolution : Obligations.SlotToBitMapIsAnInvolution :=
  ⟨fun j hj => ⟨ioBit_lt hj, ioBit_ioBit j, ioBit_div j⟩, by decide, fun _ _ _ _ => ioBit_inj.1,
    fun _ _ _ hj => ioBit_lt_of_lt hj⟩

/-- Settles O18: bit k is set when the slot of k is one of the batch, and k is the bit of that slot. -/
theorem notMaskIsTheActiveBits : Obligations.NotMaskIsTheActiveBits := by
  intro b k _ hb
  rw [getLsbD_notMaskOf, Bool.and_eq_true, decide_eq_true_iff, decide_eq_true_iff]
  constructor
  · exact fun ⟨_, hk⟩ => ⟨ioBit k, hk, (ioBit_ioBit k).symm⟩
  · rintro ⟨j, hj, rfl⟩
    exact ⟨ioBit_lt (hj.trans_le hb), by rwa [ioBit_ioBit]⟩

/-! ## Records -/

/-- R43: byte i of the little-endian bytes of a value. -/
theorem littleEndianBytes_getElem? {k i : Nat} (v : Nat) (hi : i < k) :
    (littleEndianBytes k v)[i]? = some (BitVec.ofNat 8 (v / 256 ^ i)) := by
  induction k generalizing v i with
  | zero => omega
  | succ k ih =>
    cases i with
    | zero => simp [littleEndianBytes]
    | succ i =>
      rw [littleEndianBytes, List.getElem?_cons_succ, ih _ (by omega), Nat.div_div_eq_div_mul, Nat.pow_succ']

/-- R128: byte k of a record is bits 8k to 8k+7 of the result word. -/
theorem traceRecord_getElem? {b k : Nat} (r : Word) (hk : k < traceWidth b) :
    (traceRecord b r)[k]? = some (r.extractLsb' (8 * k) 8) := by
  rw [traceRecord, littleEndianBytes_getElem? _ hk, BitVec.extractLsb', Nat.shiftRight_eq_div_pow, Nat.pow_mul]

/-- R127: a record has room for every slot of a legal batch. -/
theorem bytesForBits_le_traceWidth {b : Nat} (hb : b ≤ 64) : bytesForBits b ≤ traceWidth b := by
  unfold bytesForBits traceWidth
  split_ifs <;> omega

/-- Settles O20: the bytes of a record are those of its word, and the word recorded is the one written. -/
theorem traceRecordIsTheLowBytes : Obligations.TraceRecordIsTheLowBytes := by
  refine ⟨fun b r _ hb => ⟨traceRecord_length b r, fun k => traceRecord_getElem? r, fun j hj => ?_⟩, fun i s hr => ?_⟩
  · exact (ioBit_lt_of_lt hj).trans_le (Nat.mul_le_mul_left 8 (bytesForBits_le_traceWidth hb))
  · refine ⟨_, exec_eq_afterInstr hr, ?_⟩
    rw [State.readWire_afterInstr hr.1, if_pos rfl, State.afterInstr_eq]

/-! ## A record that is not taken -/

/-- The machine whose host takes every record. -/
def State.takingRecords (s : State) : State := { s with sink := { s.sink with appendFailsAt := none } }

/-- R133: with every record taken no append fails. -/
theorem State.takingRecords_appendFails (s : State) : s.takingRecords.appendFails = false := by
  simp [State.takingRecords, State.appendFails]

/-- R134: the wires and the source do not show whether a record is taken. -/
theorem State.afterLostRecord_eq_takingRecords (s : State) (i : Instr) :
    (s.afterLostRecord i).circuits = (s.takingRecords.afterInstr i).circuits ∧
      (s.afterLostRecord i).randomSource = (s.takingRecords.afterInstr i).randomSource := by
  cases i <;> exact ⟨rfl, rfl⟩

/-- R134: what is left of a lost record is the beginning of the record of the word written. -/
theorem State.partialRecord_afterLostRecord {s : State} {i : Instr} (hw : i.wf s.memorySize) :
    (s.afterLostRecord i).partialRecord <+: traceRecord s.b ((s.afterLostRecord i).readWire i.dest.toNat) := by
  rw [State.readWire_afterLostRecord, State.readWire_afterInstr hw, if_pos rfl, State.afterLostRecord_eq]
  exact ⟨_, List.take_append_drop _ _⟩

/-- Settles O21: an instruction on wires of the circuit whose record is not taken aborts after its write, and the one
whose record is taken has written and drawn the same. -/
theorem failedAppendLeavesPartOfARecord : Obligations.FailedAppendLeavesPartOfARecord := by
  intro i s hw hfails
  refine ⟨_, exec_eq_afterLostRecord hw hfails, rfl, rfl, rfl, ?_, State.partialRecord_afterLostRecord hw,
    fun u hu => ?_⟩
  · rw [State.afterLostRecord_eq]
  · have hruns : s.takingRecords.Runs i := ⟨hw, s.takingRecords_appendFails⟩
    obtain rfl := Host.Outcome.next.inj ((exec_eq_afterInstr hruns).symm.trans hu)
    exact s.afterLostRecord_eq_takingRecords i

/-! ## The end of the trace -/

/-- R96: with an Evaluate in flight and no instruction left, every instruction has completed. -/
theorem State.n_eq_of_not_more {s : State} (hev : s.evaluatingInv) (hm : s.moreInstructions = false) :
    s.n = s.circuit.header.numOpcodes.toNat := by
  obtain ⟨-, -, -, -, hn, -⟩ := hev
  have hnot : ¬ s.n < s.circuit.header.numOpcodes.toNat := of_decide_eq_false hm
  omega

/-- Settles O22: of the steps in flight only the completion leaves the status ok with the block idle, and it keeps the
records that the invariant counts. -/
theorem completedTraceHasOneRecordPerInstruction : Obligations.CompletedTraceHasOneRecordPerInstruction := by
  intro s t hi hp h ht hst
  have hev := State.evaluatingInv_of_inv hp hi
  obtain ⟨-, hcase⟩ := flight_cases hp h
  cases hcase with
  | aborts | losesRecord => cases hst
  | completes i => simp [hp] at ht
  | ends hm =>
    have hn := State.n_eq_of_not_more hev hm
    obtain ⟨-, -, -, -, -, -, -, -, -, -, -, -, -, htrace⟩ := hev
    rw [State.traceInv, hn] at htrace
    have hpart := State.partialRecord_eq_nil_of_inv hp hi
    exact ⟨hpart, htrace⟩

/-- R103: bytes left over after the last instruction abort the Evaluate. -/
theorem State.finishEvaluate_of_bytesLeft {s : State} (hpc : s.pc ≠ s.circuit.header.opcodesSize.toNat) :
    s.finishEvaluate = s.abort (.streamLengthMismatch s.pc s.circuit.header.opcodesSize.toNat) :=
  if_pos hpc

/-- R132: a sink that does not close aborts an Evaluate about to complete. -/
theorem State.finishEvaluate_of_closeFails {s : State} (hpc : s.pc = s.circuit.header.opcodesSize.toNat)
    (hclose : (s.traceAttached && s.sink.closeFails) = true) : s.finishEvaluate = s.abort (.ioError .closing) := by
  simp [State.finishEvaluate, hpc, hclose]

/-- R132: an end of the run with another error than that of the close was there before the close. -/
theorem State.finishEvaluate_withClose {s : State} {e : TransactionError} (fails : Bool)
    (hst : s.finishEvaluate.status = .fault e) (he : e ≠ .ioError .closing) :
    (s.withClose fails).finishEvaluate = s.finishEvaluate.withClose fails := by
  by_cases hpc : s.pc = s.circuit.header.opcodesSize.toNat
  · cases hclose : s.traceAttached && s.sink.closeFails with
    | true =>
      rw [State.finishEvaluate_of_closeFails hpc hclose] at hst
      cases hst
      exact absurd rfl he
    | false =>
      rw [State.finishEvaluate_eq_complete hpc hclose] at hst
      cases hst
  · have hpc' : (s.withClose fails).pc ≠ (s.withClose fails).circuit.header.opcodesSize.toNat := hpc
    rw [State.finishEvaluate_of_bytesLeft hpc, State.finishEvaluate_of_bytesLeft hpc']
    rfl

/-- Settles O23: every end of an Evaluate closes the sink; only the end of the run looks at whether the close fails, and
only after its check of the stream. -/
theorem sinkIsClosedAtTheEnd : Obligations.SinkIsClosedAtTheEnd := by
  refine ⟨fun s t hp h ht => ?_, fun s hev hm hpc hatt hfails => ?_, fun s t e fails hev h _ hst he => ?_⟩
  · obtain ⟨-, hcase⟩ := flight_cases hp h
    cases hcase with
    | aborts | losesRecord | ends => rfl
    | completes i => simp [hp] at ht
  · refine State.abortsInFlight_of_step_eq ?_
    rw [step_eq_finish hev hm, State.finishEvaluate_of_closeFails hpc (by simp [hatt, hfails])]
  · have hsink : t.sink = s.sink := by rw [flight_frame hev.1 h]
    have ht : { t with sink := { s.sink with closeFails := fails } } = t.withClose fails := by
      rw [State.withClose, hsink]
    rw [ht]
    change step (s.withClose fails) = .next (t.withClose fails)
    have hu := s.unseen_withClose fails
    cases hm : s.moreInstructions with
    | true =>
      have hstep := hu.step_of_more hev hm h
      rwa [State.carry_self] at hstep
    | false =>
      rw [step_eq_finish hev hm] at h
      obtain rfl := Host.Outcome.next.inj h
      rw [step_eq_finish (hu.evaluating hev) (hu.moreInstructions.trans hm),
        State.finishEvaluate_withClose fails hst he]

end Sys2Proof.Machine

/-! # Proofs: the start of an Evaluate, and its aborts -/

namespace Sys2Proof.Machine

/-! ## The checks in their order -/

theorem legalBatch_of_le {b : Int} (hlo : 1 ≤ b) (hhi : b ≤ 64) : legalBatch b :=
  ⟨hlo, by simpa [Config.maxBatch] using hhi⟩

/-- R92: with a legal batch the length of the input is checked next. -/
theorem evaluateError_of_length_ne {c : Circuit} {input : List Byte} {b : Int} (hb : legalBatch b)
    (hlen : input.length ≠ b.toNat * bytesForBits c.header.inputSize.toNat) :
    evaluateError c input b = some (.inputLengthMismatch input.length) := by
  rw [evaluateError, if_neg (not_not.2 hb), if_pos hlen]

/-- R95: with a legal batch and an input of the right length the tables are checked. -/
theorem evaluateError_eq_tableError {c : Circuit} {input : List Byte} {b : Int} (hb : legalBatch b)
    (hlen : input.length = b.toNat * bytesForBits c.header.inputSize.toNat) :
    evaluateError c input b = tableError c := by
  rw [evaluateError, if_neg (not_not.2 hb), if_neg (not_not.2 hlen)]

/-- Settles O25: the batch check passes, and the length check is the next. -/
theorem inputLengthIsChecked : Obligations.InputLengthIsChecked := by
  intro s h c input b attached draws ha hlo hhi hlen
  exact State.turnsAway_of_evaluateError ha (evaluateError_of_length_ne (legalBatch_of_le hlo hhi) hlen)

/-! ## The address tables -/

/-- R95: the input table is checked first. -/
theorem tableError_of_input {c : Circuit} {i : Nat} {a : WireAddr}
    (h : firstOutOfRange c.header.memory.toNat c.inputAddr = some (i, a)) :
    tableError c = some (.tableAddressOutOfRange .input i a) := by
  simp [tableError, h]

/-- R95: the output table is checked when the input table names wires of the circuit. -/
theorem tableError_of_output {c : Circuit} {i : Nat} {a : WireAddr}
    (hin : ∀ x ∈ c.inputAddr, x.toNat < c.header.memory.toNat)
    (h : firstOutOfRange c.header.memory.toNat c.outputAddr = some (i, a)) :
    tableError c = some (.tableAddressOutOfRange .output i a) := by
  simp [tableError, firstOutOfRange_eq_none.2 hin, h]

/-- R95: duplicates are looked for when both tables name wires of the circuit. -/
theorem tableError_of_duplicate {c : Circuit} {i i' : Nat} (hin : ∀ x ∈ c.inputAddr, x.toNat < c.header.memory.toNat)
    (hout : ∀ x ∈ c.outputAddr, x.toNat < c.header.memory.toNat)
    (h : firstDuplicate [] c.inputAddr = some (i, i')) : tableError c = some (.duplicateInputAddress i i') := by
  simp [tableError, firstOutOfRange_eq_none.2 hin, firstOutOfRange_eq_none.2 hout, h]

/-- R95: of the pairs of equal entries the one found has the least second index, and with it the least first. -/
theorem firstDuplicate_eq_some {seen l : List WireAddr} {i i' : Nat} {a : WireAddr} (hseen : seen.length ≤ i')
    (hlt : i < i') (hi : (seen ++ l)[i]? = some a) (hi' : (seen ++ l)[i']? = some a)
    (hsecond : ∀ (k k' : Nat) (x : WireAddr), k < k' → k' < i' → (seen ++ l)[k]? = some x → (seen ++ l)[k']? ≠ some x)
    (hfirst : ∀ k, k < i → (seen ++ l)[k]? ≠ some a) : firstDuplicate seen l = some (i, i') := by
  induction l generalizing seen with
  | nil =>
    rw [List.append_nil, List.getElem?_eq_none hseen] at hi'
    cases hi'
  | cons b l ih =>
    have hb : (seen ++ b :: l)[seen.length]? = some b := by simp
    have hold : ∀ k < seen.length, (seen ++ b :: l)[k]? = seen[k]? := fun k hk => List.getElem?_append_left hk
    rw [firstDuplicate]
    rcases hseen.eq_or_lt with rfl | hseen
    · obtain rfl : b = a := Option.some.inj (hb.symm.trans hi')
      have hfound : seen.findIdx? (· == b) = some i := by
        rw [hold i hlt] at hi
        obtain ⟨_, hget⟩ := List.getElem?_eq_some_iff.1 hi
        refine List.findIdx?_eq_some_iff_getElem.2 ⟨hlt, by simpa using hget, fun k hk => ?_⟩
        have hne := hfirst k hk
        rw [hold k (hk.trans hlt), List.getElem?_eq_getElem (hk.trans hlt)] at hne
        simpa using hne
      rw [hfound]
    · have hnew : seen.findIdx? (· == b) = none := by
        refine List.findIdx?_eq_none_iff.2 fun x hx => ?_
        obtain ⟨k, hk⟩ := List.mem_iff_getElem?.1 hx
        obtain ⟨hklt, -⟩ := List.getElem?_eq_some_iff.1 hk
        have hne := hsecond k seen.length x hklt hseen (by rw [hold k hklt, hk])
        rw [hb] at hne
        exact beq_false_of_ne fun hxb => hne (congrArg some hxb.symm)
      rw [hnew]
      have happ : seen ++ b :: l = (seen ++ [b]) ++ l := by simp
      rw [happ] at hi hi' hsecond hfirst
      exact ih (by simpa using hseen) hi hi' hsecond hfirst

/-- Settles O26: each clause says which entry its check finds, and that the checks before it find none. -/
theorem addressTablesAreChecked : Obligations.AddressTablesAreChecked := by
  intro s h c input b attached draws ha hlo hhi hlen
  have herr := evaluateError_eq_tableError (c := c) (legalBatch_of_le hlo hhi) hlen
  refine ⟨fun i a hi ho hbefore => ?_, fun hin => ⟨fun i a hi ho hbefore => ?_,
    fun hout i i' a hlt hi hi' hsecond hfirst => ?_⟩⟩
  · have hfound := firstOutOfRange_eq_some.2 ⟨hi, ho, hbefore⟩
    exact State.turnsAway_of_evaluateError ha (herr.trans (tableError_of_input hfound))
  · have hfound := firstOutOfRange_eq_some.2 ⟨hi, ho, hbefore⟩
    exact State.turnsAway_of_evaluateError ha (herr.trans (tableError_of_output hin hfound))
  · have hfound := firstDuplicate_eq_some (seen := []) (Nat.zero_le _) hlt hi hi' hsecond hfirst
    exact State.turnsAway_of_evaluateError ha (herr.trans (tableError_of_duplicate hin hout hfound))

/-! ## The opening of the sink -/

/-- R131: an Evaluate whose checks pass and whose sink does not open is aborted. -/
theorem State.startEvaluate_of_openFails {s : State} {h : Nat} {c : Circuit} {input : List Byte} {b : Int}
    {attached : Bool} {draws : SinkDraws} (hc : s.circuits[h]? = some c) (he : evaluateError c input b = none)
    (ho : (attached && draws.openFails) = true) :
    s.startEvaluate h input b attached draws = (s.accept h input draws).abortBatch b.toNat (.ioError .opening) := by
  have hcirc : (s.accept h input draws).circuit = c := State.circuit_of_getElem? hc
  simp [State.startEvaluate, hcirc, he, ho]

/-- Settles O27: the checks answer no error, and the sink is opened after them. -/
theorem sinkThatDoesNotOpenAborts : Obligations.SinkThatDoesNotOpenAborts := by
  intro s h c input b draws ha hb hlen htables ho
  have hc : s.popRequest.circuits[h]? = some c := ha.2
  have hstep : step s = .next ((s.popRequest.accept h input draws).abortBatch b.toNat (.ioError .opening)) := by
    rw [step_eq_start ha,
      State.startEvaluate_of_openFails hc (evaluateError_eq_none.2 ⟨hb, hlen, htables⟩) (by rw [ho]; rfl)]
  exact ⟨_, hstep, rfl, rfl, rfl, rfl, rfl, rfl, rfl, rfl⟩

/-! ## The accepted start -/

/-- R93: a wire that is no input wire is 0 when the Evaluate starts. -/
theorem Circuit.read_packed_of_not_input {c : Circuit} (input : List Byte) (b : Nat) {a : Nat}
    (ha : ∀ x ∈ c.inputAddr, x.toNat ≠ a) : (c.packed input b).ram.read a = 0 := by
  rw [Circuit.packed, read_packWires_other _ _ _ _ _ _ ha, Memory.read_nil]

/-- Settles O28: the started state is written out field by field; the flag is no field that a step in flight writes. -/
theorem acceptedEvaluateInitialises : Obligations.AcceptedEvaluateInitialises := by
  refine ⟨fun s h c input b attached draws ha hacc => ?_, fun s t hp h => by rw [flight_frame hp h]⟩
  have hc : s.popRequest.circuits[h]? = some c := ha.2
  have hcirc := State.circuit_startEvaluate_of_accepts hc hacc
  refine ⟨_, step_eq_start ha, ?_, ?_, fun h' hne => ?_, ?_, fun a hna => ?_⟩
  · rw [started_eq hc hacc]
    rfl
  · rw [started_eq hc hacc]
    exact List.length_set
  · rw [started_eq hc hacc]
    exact List.getElem?_set_ne hne.symm
  · rw [hcirc, Circuit.packed]
  · rw [State.readWire, hcirc, Circuit.read_packed_of_not_input input b.toNat hna]

/-! ## The padding of the input -/

/-- R119: packing one input bit reads that bit of each slot of the batch only. -/
theorem packWire_congr {input input' : List Byte} {inB b i : Nat}
    (h : ∀ j, j < b → bufferBit input (j * inB) i = bufferBit input' (j * inB) i) (w : Word) :
    packWire input inB b i w = packWire input' inB b i w :=
  List.foldl_ext _ _ _ fun v j hj => by rw [h j (List.mem_range.1 hj)]

/-- R119: packing reads the input bits of the table only. -/
theorem packWires_congr {input input' : List Byte} {inB b size : Nat}
    (h : ∀ i j, i < size → j < b → bufferBit input (j * inB) i = bufferBit input' (j * inB) i) {i : Nat}
    {addrs : List WireAddr} (hi : i + addrs.length ≤ size) (m : Memory) :
    packWires input inB b i addrs m = packWires input' inB b i addrs m := by
  induction addrs generalizing i m with
  | nil => rfl
  | cons a addrs ih =>
    rw [List.length_cons] at hi
    rw [packWires, packWires, packWire_congr fun j hj => h i j (by omega) hj, ih (by omega)]

/-- R120: the wires an Evaluate starts with do not depend on the padding of the input. -/
theorem Circuit.packed_congr {c : Circuit} {input input' : List Byte} {b : Nat}
    (hlen : c.inputAddr.length = c.header.inputSize.toNat)
    (h : ∀ i j, i < c.header.inputSize.toNat → j < b →
      bufferBit input (j * bytesForBits c.header.inputSize.toNat) i =
        bufferBit input' (j * bytesForBits c.header.inputSize.toNat) i) :
    c.packed input b = c.packed input' b := by
  rw [Circuit.packed, Circuit.packed, packWires_congr h (by omega)]

/-- R119, R120: inputs with the same bits start the same Evaluate, but for the buffer itself. -/
theorem State.startEvaluate_withInput {s : State} {h : Nat} {c : Circuit} {input input' : List Byte} {b : Int}
    {attached : Bool} {draws : SinkDraws} (hc : s.circuits[h]? = some c) (hacc : c.Accepts input b attached draws)
    (hacc' : c.Accepts input' b attached draws) (hpacked : c.packed input b.toNat = c.packed input' b.toNat) :
    s.startEvaluate h input' b attached draws = (s.startEvaluate h input b attached draws).withInput input' := by
  rw [started_eq hc hacc, started_eq hc hacc', hpacked]
  rfl

/-- Settles O30: at the start the input bits reach the wires through the packing only, and a step in flight does not
read the buffer. -/
theorem inputPaddingIsIgnored : Obligations.InputPaddingIsIgnored := by
  refine ⟨fun s t h c input input' b attached draws hw ha hacc hacc' hbits hstep => ?_, fun s t input hp h => ?_⟩
  · have hc : s.popRequest.circuits[h]? = some c := ha.2
    have ha' : State.AsksEvaluate { s with requests := .evaluate h input' b attached draws :: s.requests.tail } h c
        input' b attached draws := ⟨⟨ha.1.1, rfl⟩, ha.2⟩
    obtain rfl : s.popRequest.startEvaluate h input b attached draws = t :=
      Host.Outcome.next.inj ((step_eq_start ha).symm.trans hstep)
    rw [step_eq_start ha']
    exact congrArg _ (State.startEvaluate_withInput hc hacc hacc' (Circuit.packed_congr hw.1 hbits))
  · have hstep := (s.unseen_withInput input).step rfl rfl hp h
    rwa [State.carry_self] at hstep

/-! ## Aborts -/

/-- Settles O31: with every instruction run the step is the end of the run, whose first check is that of the stream. -/
theorem streamEndIsChecked : Obligations.StreamEndIsChecked := by
  intro s hev hn hpc
  have hm : s.moreInstructions = false := by simp [State.moreInstructions, hn]
  exact State.abortsInFlight_of_step_eq (by rw [step_eq_finish hev hm, State.finishEvaluate_of_bytesLeft hpc])

/-- Settles O33: the abort is an update of these fields, and its output has the length of the batch. -/
theorem abortChangesNothingElse : Obligations.AbortChangesNothingElse := fun s _ =>
  ⟨rfl, State.unspecifiedOutput_length s s.b⟩

/-- R101: a lost record's instruction has written its destination only. -/
theorem State.readWire_afterLostRecord_other {s : State} {i : Instr} (hw : i.wf s.memorySize) {a : Nat}
    (ha : a ≠ i.dest.toNat) : (s.afterLostRecord i).readWire a = s.readWire a := by
  rw [State.readWire_afterLostRecord, State.readWire_afterInstr hw, if_neg ha]

/-- Settles O34: a step in flight that ends in a fault aborts before a write, or with a lost record after it. -/
theorem abortsArePrecise : Obligations.AbortsArePrecise := by
  intro s t e hev hok h hst
  obtain ⟨-, hcase⟩ := flight_cases hev.1 h
  cases hcase with
  | aborts => exact ⟨rfl, rfl, rfl, .inl rfl⟩
  | completes i => simp [hok] at hst
  | ends => cases hst
  | losesRecord i rest _ hf hw =>
    obtain rfl : TransactionError.ioError (.append s.n) = e := Status.fault.inj hst
    refine ⟨?_, ?_, ?_, .inr ⟨rfl, i, rest, hf, fun a => State.readWire_afterLostRecord_other hw⟩⟩ <;>
      rw [State.afterLostRecord_eq]

end Sys2Proof.Machine

/-! # Proofs: Load, Reseed and the refusal of an unknown handle -/

namespace Sys2Proof.Machine

/-! ## Reseed, the reset and the refusal -/

/-- R10: asked for Reseed, the block serves it in one step. -/
theorem step_eq_reseed {s : State} (ha : s.Asks .reseed) : step s = .next s.popRequest.reseed := by
  obtain ⟨hp, hr⟩ := ha
  obtain ⟨rest, hr⟩ := List.head?_eq_some_iff.1 hr
  rw [step_eq_serve hp]
  simp [State.serve, hr]

/-- Settles O36: the step is Reseed on the popped queue, and ending it leaves the idle phase as it was. -/
theorem reseedStartsAFreshSequence : Obligations.ReseedStartsAFreshSequence := by
  intro s ha
  have hidle : { s.popRequest with randomSource := s.randomSource.reseed }.phase = .idle := ha.1
  exact ⟨_, step_eq_reseed ha, rfl, rfl, rfl, State.endTransaction_of_idle hidle .ok .done⟩

/-- Settles O41: the handle check of an Evaluate comes before the Evaluate begins. -/
theorem unknownHandleIsRefused : Obligations.UnknownHandleIsRefused := by
  intro s h input b attached draws ha hh
  obtain ⟨hp, hr⟩ := ha
  obtain ⟨rest, hr⟩ := List.head?_eq_some_iff.1 hr
  rw [step_eq_serve hp]
  simp [State.serve, hr, hh.not_gt]

/-- Settles O42: the reset state takes the parameter. -/
theorem resetTakesTheOpenParameter : Obligations.ResetTakesTheOpenParameter := rfl

/-- Settles O60: the codes are computed, and the class is read off them kind by kind (R87). -/
theorem errorsHaveTheirCodes : Obligations.ErrorsHaveTheirCodes := by
  refine ⟨rfl, fun e => ?_, fun _ _ _ _ _ _ _ _ => ⟨rfl, rfl, rfl, rfl, rfl, rfl, rfl, rfl, rfl, rfl, rfl, rfl, rfl⟩⟩
  cases e <;> simp [TransactionError.isMalformedFile, TransactionError.code]

/-! ## What a Load does -/

/-- R78: asked for a Load, the block serves it in one step. -/
theorem step_eq_load {s : State} {file : List Byte} {draws : AllocDraws} (ha : s.Asks (.load file draws)) :
    step s = .next (s.popRequest.load file draws) := by
  obtain ⟨hp, hr⟩ := ha
  obtain ⟨rest, hr⟩ := List.head?_eq_some_iff.1 hr
  rw [step_eq_serve hp]
  simp [State.serve, hr]

theorem State.load_of_error {s : State} {file : List Byte} {draws : AllocDraws} {e : TransactionError}
    (h : loadError file draws = some e) : s.load file draws = s.endTransaction (.fault e) (.loadFailed e) := by
  rw [State.load, h]

theorem State.load_of_no_error {s : State} {file : List Byte} {draws : AllocDraws} (h : loadError file draws = none) :
    s.load file draws =
      (s.addCircuit (parseCircuit file s.freeSerial)).endTransaction .ok (.loaded s.circuits.length) := by
  rw [State.load, h]

/-- R36, R78: the status of a Load is the error it ends with, or ok. -/
theorem State.load_status (s : State) (file : List Byte) (draws : AllocDraws) :
    (s.load file draws).status = (loadError file draws).elim .ok .fault := by
  cases h : loadError file draws with
  | some e => rw [State.load_of_error h]; rfl
  | none => rw [State.load_of_no_error h]; rfl

/-- R84: a Load that reports an error adds no circuit and answers with the error alone. -/
theorem State.load_of_status_fault {s : State} {file : List Byte} {draws : AllocDraws} {e : TransactionError}
    (h : (s.load file draws).status = .fault e) :
    s.load file draws = s.endTransaction (.fault e) (.loadFailed e) := by
  rw [State.load_status] at h
  cases herr : loadError file draws with
  | some e' =>
    rw [herr] at h
    obtain rfl : e' = e := Status.fault.inj h
    exact State.load_of_error herr
  | none =>
    rw [herr] at h
    cases h

/-- A Load that reports no error ended with none. -/
theorem loadError_eq_none_of_status {s : State} {file : List Byte} {draws : AllocDraws}
    (h : (s.load file draws).status = .ok) : loadError file draws = none := by
  rw [State.load_status] at h
  cases herr : loadError file draws with
  | none => rfl
  | some e =>
    rw [herr] at h
    cases h

/-- R63: the header, the tables and the stream end where their counts say. -/
theorem parseHeader_offsets (file : List Byte) :
    (parseHeader file).offOut = 20 + 2 * fileRead file 0 4 ∧
      (parseHeader file).offOps = 20 + 2 * fileRead file 0 4 + 2 * fileRead file 4 4 ∧
      (parseHeader file).fileEnd = 20 + 2 * fileRead file 0 4 + 2 * fileRead file 4 4 + fileRead file 12 4 := by
  simp [Header.fileEnd, Header.offOps, Header.offOut, parseHeader, Config.headerBytes]

/-- Settles O37: the status is that of the first error, whose order is the loader's own; the offsets are written out. -/
theorem loadReportsItsFirstError : Obligations.LoadReportsItsFirstError := by
  intro s file draws ha
  refine ⟨_, step_eq_load ha, ?_, fun e he => ?_, ?_⟩
  · cases h : loadError file draws with
    | some e => rw [State.load_of_error h]; rfl
    | none => rw [State.load_of_no_error h]; rfl
  · rw [State.load_of_status_fault he]
    exact ⟨rfl, rfl⟩
  · obtain ⟨-, hops, hend⟩ := parseHeader_offsets file
    simp only [State.load_status, loadError, Config.headerBytes, hops, hend, Bool.or_eq_true]
    split_ifs <;> rfl

/-- R62, R63: byte k of the stream of a loaded circuit. -/
theorem parseCircuit_opcodes_getElem? (file : List Byte) (serial : Nat) {k : Nat} (hk : k < fileRead file 12 4) :
    (parseCircuit file serial).opcodes[k]? = file[20 + 2 * fileRead file 0 4 + 2 * fileRead file 4 4 + k]? := by
  obtain ⟨-, hops, -⟩ := parseHeader_offsets file
  have hk' : k < (parseHeader file).opcodesSize.toNat := by simpa [parseHeader] using hk
  simp [parseCircuit, hk', hops]

/-- Settles O38: the new circuit is the parsed file, whose parts are read at their offsets. -/
theorem loadedCircuitIsTheFile : Obligations.LoadedCircuitIsTheFile := by
  intro s t file draws ha h hok
  obtain rfl := Host.Outcome.next.inj ((step_eq_load ha).symm.trans h)
  have herr := loadError_eq_none_of_status hok
  obtain ⟨hout, -, -⟩ := parseHeader_offsets file
  have ⟨_, _, hlen, _⟩ := parseCircuit_wf s.popRequest.freeSerial herr
  rw [State.load_of_no_error herr]
  refine ⟨parseCircuit file s.popRequest.freeSerial, rfl, rfl, headerField_toNat _ _, headerField_toNat _ _,
    headerField_toNat _ _, headerField_toNat _ _, headerField_toNat _ _, ?_, ?_, hlen.trans (headerField_toNat _ _),
    fun k => parseCircuit_opcodes_getElem? file _⟩
  · simp [parseCircuit, parseTable_toNat, parseHeader, Config.headerBytes]
  · rw [← hout]
    simp [parseCircuit, parseTable_toNat, parseHeader]

/-! ## What a Load leaves alone -/

/-- R88: the fields of the state that an idle block's Load writes. -/
theorem State.load_frame {s : State} (hp : s.phase = .idle) (file : List Byte) (draws : AllocDraws) :
    s.load file draws = { s with
      circuits := (s.load file draws).circuits, status := (s.load file draws).status
      responses := (s.load file draws).responses, freeSerial := (s.load file draws).freeSerial } := by
  cases h : loadError file draws with
  | some e => rw [State.load_of_error h, State.endTransaction_of_idle hp]
  | none =>
    have hp' : (s.addCircuit (parseCircuit file s.freeSerial)).phase = .idle := hp
    rw [State.load_of_no_error h, State.endTransaction_of_idle hp']
    rfl

/-- R40, R88: a Load keeps every circuit there was on its handle. -/
theorem State.load_circuits_getElem? (s : State) (file : List Byte) (draws : AllocDraws) {h : Nat}
    (hh : h < s.circuits.length) : (s.load file draws).circuits[h]? = s.circuits[h]? := by
  cases herr : loadError file draws with
  | some e => rw [State.load_of_error herr, State.endTransaction_circuits]
  | none => rw [State.load_of_no_error herr, State.endTransaction_circuits, State.addCircuit_circuits,
      List.getElem?_append_left hh]

/-- Settles O39: the step is a Load on the popped queue, and a Load writes these fields only. -/
theorem loadLeavesOtherStateAlone : Obligations.LoadLeavesOtherStateAlone := by
  intro s t file draws ha h
  obtain rfl := Host.Outcome.next.inj ((step_eq_load ha).symm.trans h)
  exact ⟨State.load_frame (s := s.popRequest) ha.1 file draws, fun h hh =>
    State.load_circuits_getElem? s.popRequest file draws hh⟩

/-! ## Bytes after the end -/

/-- R78, R142: a Load ends with no error when the file reaches the end of its stream and no allocation fails. -/
theorem loadError_eq_none {file : List Byte} {draws : AllocDraws} :
    loadError file draws = none ↔ (parseHeader file).fileEnd ≤ file.length ∧
      (draws.inputAddrFails || draws.outputAddrFails) = false ∧ draws.opcodesFails = false ∧
      draws.ramFails = false := by
  have hops : (parseHeader file).offOps ≤ (parseHeader file).fileEnd := Nat.le_add_right _ _
  have hheader : Config.headerBytes ≤ (parseHeader file).offOps :=
    (Nat.le_add_right _ _).trans (Nat.le_add_right _ _)
  simp only [loadError]
  constructor
  · intro h
    split_ifs at h with _ htables _ hstream hend hram
    exact ⟨Nat.le_of_not_lt hend, Bool.eq_false_of_not_eq_true htables, Bool.eq_false_of_not_eq_true hstream,
      Bool.eq_false_of_not_eq_true hram⟩
  · rintro ⟨hend, htables, hstream, hram⟩
    simp [htables, hstream, hram, hend.not_gt, (hops.trans hend).not_gt, ((hheader.trans hops).trans hend).not_gt]

section
variable {file : List Byte} (extra : List Byte)

/-- R15: a read within a file does not see bytes added at its end. -/
theorem fileRead_append {off n : Nat} (h : off + n ≤ file.length) :
    fileRead (file ++ extra) off n = fileRead file off n := by
  have hn : n ≤ (file.drop off).length := by
    rw [List.length_drop]
    omega
  rw [fileRead, fileRead, List.drop_append_of_le_length (by omega), List.take_append_of_le_length hn]

theorem parseHeader_append (h : 20 ≤ file.length) : parseHeader (file ++ extra) = parseHeader file := by
  have hfield : ∀ off, off + 4 ≤ 20 → headerField (file ++ extra) off = headerField file off := fun off hoff => by
    rw [headerField, headerField, fileRead_append extra (hoff.trans h)]
  simp [parseHeader, hfield]

theorem parseTable_append {off size : Nat} (h : off + 2 * size ≤ file.length) :
    parseTable (file ++ extra) off size = parseTable file off size := by
  refine List.map_congr_left fun i hi => ?_
  have hlt := List.mem_range.1 hi
  rw [fileRead_append extra (by omega)]

/-- R85: a file that reaches the end of its stream is parsed alike with bytes after it. -/
theorem parseCircuit_append (h : (parseHeader file).fileEnd ≤ file.length) (serial : Nat) :
    parseCircuit (file ++ extra) serial = parseCircuit file serial := by
  have hend : 20 + 2 * (parseHeader file).inputSize.toNat + 2 * (parseHeader file).outputSize.toNat +
      (parseHeader file).opcodesSize.toNat ≤ file.length := h
  have hstream : (parseHeader file).opcodesSize.toNat ≤ (file.drop (parseHeader file).offOps).length := by
    rw [List.length_drop]
    exact Nat.le_sub_of_add_le' h
  have hops : (parseHeader file).offOps ≤ file.length := (Nat.le_add_right _ _).trans h
  rw [parseCircuit, parseCircuit, parseHeader_append extra (by omega)]
  rw [parseTable_append extra, parseTable_append extra, List.drop_append_of_le_length hops,
    List.take_append_of_le_length hstream]
  · simp only [Header.offOut, Config.headerBytes]
    omega
  · simp only [Config.headerBytes]
    omega

/-- R85: a file that loads, loads with bytes after its end. -/
theorem loadError_append {draws : AllocDraws} (h : loadError file draws = none) :
    loadError (file ++ extra) draws = none := by
  obtain ⟨hend, hdraws⟩ := loadError_eq_none.1 h
  have hheader : 20 ≤ file.length := by
    obtain ⟨-, -, hoff⟩ := parseHeader_offsets file
    omega
  refine loadError_eq_none.2 ⟨?_, hdraws⟩
  rw [parseHeader_append extra hheader, List.length_append]
  omega

end

/-- Settles O40: the longer file ends with no error either, and is parsed to the same circuit. -/
theorem bytesAfterTheEndAreIgnored : Obligations.BytesAfterTheEndAreIgnored := by
  intro s t file extra draws rest hp hr h hok
  have ha : s.Asks (.load file draws) := ⟨hp, by rw [hr]; rfl⟩
  have ha' : State.Asks { s with requests := .load (file ++ extra) draws :: rest } (.load (file ++ extra) draws) :=
    ⟨hp, rfl⟩
  obtain rfl := Host.Outcome.next.inj ((step_eq_load ha).symm.trans h)
  have herr := loadError_eq_none_of_status hok
  have hpop : State.popRequest { s with requests := .load (file ++ extra) draws :: rest } = s.popRequest := by
    simp [State.popRequest, hr]
  rw [step_eq_load ha', hpop, State.load_of_no_error herr, State.load_of_no_error (loadError_append extra herr),
    parseCircuit_append extra (loadError_eq_none.1 herr).1]

end Sys2Proof.Machine

/-! # Proofs: the whole machine, step by step -/

namespace Sys2Proof.Machine

/-! ## Answers -/

/-- R6, R105: a step in flight goes on without an answer, or ends the Evaluate with one. -/
theorem flight_answer {s t : State} (hp : s.phase = .evaluating) (h : step s = .next t) :
    t.phase = .evaluating ∧ t.responses = s.responses ∨
      t.phase = .idle ∧ t.responses = s.responses ++ [t.answer] := by
  obtain ⟨-, hcase⟩ := flight_cases hp h
  cases hcase with
  | aborts | ends => exact .inr ⟨rfl, rfl⟩
  | completes i => exact .inl ⟨by simpa using hp, by simp⟩
  | losesRecord i =>
    rw [State.afterLostRecord_eq]
    exact .inr ⟨rfl, rfl⟩

/-- Settles O47: no step in flight writes the requests, and the answer is given by the step that ends the Evaluate. -/
theorem evaluateIsAtomic : Obligations.EvaluateIsAtomic := fun _ _ hp h =>
  ⟨by rw [flight_frame hp h], flight_answer hp h⟩

/-! ## Circuits -/

/-- R23: setting the wires of the current circuit keeps the rest of every circuit. -/
theorem State.setRam_circuits_getElem? {s : State} (m : Memory) {h : Nat} {c : Circuit}
    (hc : s.circuits[h]? = some c) : ∃ m', (s.setRam m).circuits[h]? = some { c with ram := m' } := by
  by_cases hh : h = s.current
  · subst hh
    obtain ⟨hlt, -⟩ := List.getElem?_eq_some_iff.1 hc
    refine ⟨m, ?_⟩
    rw [State.setRam_circuits, List.getElem?_set_self hlt, State.circuit_of_getElem? hc]
  · exact ⟨c.ram, (State.set_getElem?_other hh m).trans hc⟩

/-- Settles O49: a Load adds a circuit after those there are, and every other write of a circuit is one of its wires. -/
theorem circuitsAreImmutableButForWires : Obligations.CircuitsAreImmutableButForWires := by
  intro s t h c hstep hc
  cases step_cases hstep with
  | load file draws rest hp hr =>
    obtain ⟨hlt, -⟩ := List.getElem?_eq_some_iff.1 hc
    exact ⟨c.ram, (State.load_circuits_getElem? s.popRequest file draws hlt).trans hc⟩
  | started h' c' input batch attached draws rest hp hr hc' ha =>
    have hs : (s.popRequest.startEvaluate h' input batch attached draws).circuits =
        s.circuits.set h' (c'.packed input batch.toNat) := by
      rw [started_eq (s := s.popRequest) hc' ha]
      rfl
    rw [hs]
    by_cases hh : h = h'
    · subst hh
      obtain rfl : c = c' := Option.some.inj (hc.symm.trans hc')
      obtain ⟨hlt, -⟩ := List.getElem?_eq_some_iff.1 hc
      exact ⟨_, List.getElem?_set_self hlt⟩
    · exact ⟨c.ram, (List.getElem?_set_ne (Ne.symm hh)).trans hc⟩
  | completes i | appendFails i =>
    have hdrawn : (i.drawFrom s).circuits[h]? = some c := by simpa using hc
    exact State.setRam_circuits_getElem? _ hdrawn
  | wait | setRandomEnable | reseed | rejected | badOperand | truncated | unknownTag | bytesLeft | closeFails | ends =>
    exact ⟨c.ram, hc⟩

/-- R90, R131: an Evaluate that is not accepted is aborted, with an error that does not depend on the wires. -/
theorem State.startEvaluate_of_not_accepts {c : Circuit} {input : List Byte} {b : Int} {attached : Bool}
    {draws : SinkDraws} (hn : ¬ c.Accepts input b attached draws) :
    ∃ e, ∀ (s : State) (h : Nat) (m : Memory), s.circuits[h]? = some { c with ram := m } →
      s.startEvaluate h input b attached draws = (s.accept h input draws).abortBatch b.toNat e := by
  cases he : evaluateError c input b with
  | some e => exact ⟨e, fun s h m hc => State.startEvaluate_of_evaluateError (c := { c with ram := m }) hc he _ _⟩
  | none =>
    have ho : (attached && draws.openFails) = true := by
      obtain ⟨hb, hlen, htables⟩ := evaluateError_eq_none.1 he
      exact Bool.eq_true_of_not_eq_false fun ho => hn ⟨hb, hlen, htables, ho⟩
    exact ⟨.ioError .opening, fun s h m hc => State.startEvaluate_of_openFails (c := { c with ram := m }) hc he ho⟩

/-- R40: the start of an Evaluate, accepted or not, keeps every other circuit. -/
theorem State.startEvaluate_circuits_getElem?_other {s : State} {h h' : Nat} {c : Circuit}
    (hc : s.circuits[h]? = some c) (hne : h' ≠ h) (input : List Byte) (b : Int) (attached : Bool) (draws : SinkDraws) :
    (s.startEvaluate h input b attached draws).circuits[h']? = s.circuits[h']? := by
  by_cases hacc : c.Accepts input b attached draws
  · rw [started_eq hc hacc]
    exact List.getElem?_set_ne hne.symm
  · obtain ⟨e, he⟩ := State.startEvaluate_of_not_accepts hacc
    rw [he s h c.ram hc]
    rfl

/-- Settles O50: the start writes the wires of the handle asked for, and an instruction those of the current one. -/
theorem handlesShareNoCircuitState : Obligations.HandlesShareNoCircuitState := by
  refine ⟨fun s t h h' c input b attached draws ha hstep hne => ?_, fun s t h hp hstep hne => ?_⟩
  · obtain rfl := Host.Outcome.next.inj ((step_eq_start ha).symm.trans hstep)
    exact State.startEvaluate_circuits_getElem?_other (s := s.popRequest) ha.2 hne input b attached draws
  · obtain ⟨-, hcase⟩ := flight_cases hp hstep
    cases hcase with
    | aborts | ends => rfl
    | completes i =>
      rw [State.afterInstr_eq]
      exact State.set_getElem?_other hne _
    | losesRecord i =>
      rw [State.afterLostRecord_eq]
      exact State.set_getElem?_other hne _

/-! ## Global state -/

/-- R34, R50: what a step can do to the random source. -/
inductive SourceCase (s : State) : RandomSource → Prop where
  | keeps : SourceCase s s.randomSource
  | reseeds (ha : s.Asks .reseed) : SourceCase s s.randomSource.reseed
  | draws (hp : s.phase = .evaluating) (he : s.randomEnable = true) (d : WireAddr) (rest : List Byte)
      (hf : s.fetch = .ok (.random d) rest) : SourceCase s s.randomSource.advance

/-- R112: a fetched instruction keeps the source, or draws from it. -/
theorem SourceCase.of_drawFrom {s : State} {i : Instr} {rest : List Byte} (hp : s.phase = .evaluating)
    (hf : s.fetch = .ok i rest) : SourceCase s (i.drawFrom s).randomSource := by
  cases i with
  | xor | and | or | not => exact .keeps
  | random d =>
    rw [Instr.drawFrom, State.consumeDraw_randomSource]
    split
    · rename_i he
      exact .draws hp he d rest hf
    · exact .keeps

/-- R13, R33, R34: what a step can do to the global state: keep `TAG`, write the flag by SetRandomEnable only, and
change the source in the ways listed. -/
theorem step_globals {s t : State} (h : step s = .next t) :
    t.tags = s.tags ∧ (t.randomEnable = s.randomEnable ∨ s.Asks (.setRandomEnable t.randomEnable)) ∧
      SourceCase s t.randomSource := by
  cases step_cases h with
  | wait | rejected | badOperand | truncated | unknownTag | bytesLeft | closeFails | ends =>
    exact ⟨rfl, .inl rfl, .keeps⟩
  | load file draws rest hp hr =>
    rw [State.load_frame (s := s.popRequest) hp file draws]
    exact ⟨rfl, .inl rfl, .keeps⟩
  | setRandomEnable flag rest hp hr => exact ⟨rfl, .inr ⟨hp, by rw [hr]; rfl⟩, .keeps⟩
  | reseed rest hp hr => exact ⟨rfl, .inl rfl, .reseeds ⟨hp, by rw [hr]; rfl⟩⟩
  | started h c input batch attached draws rest hp hr hc ha =>
    rw [started_eq (s := s.popRequest) hc ha]
    exact ⟨rfl, .inl rfl, .keeps⟩
  | completes i _ hev _ hf | appendFails i _ hev _ hf =>
    exact ⟨drawFrom_tags i s, .inl (drawFrom_randomEnable i s), .of_drawFrom hev.1 hf⟩

/-- Settles O51: a step that does not serve SetRandomEnable keeps the flag. -/
theorem onlySetRandomEnableWritesTheFlag : Obligations.OnlySetRandomEnableWritesTheFlag := by
  intro s t h hne
  obtain ⟨-, hflag, -⟩ := step_globals h
  exact hflag.resolve_left hne

/-- Settles O52: `TAG` is no part of the state that a step writes. -/
theorem tagsAreNeverWritten : Obligations.TagsAreNeverWritten := fun _ _ h => (step_globals h).1

/-- Settles O53: of the three ways of the source the changing ones are the Reseed and the draw. -/
theorem onlyDrawsAndReseedTouchTheSource : Obligations.OnlyDrawsAndReseedTouchTheSource := by
  intro s t h hne
  obtain ⟨-, -, hsource⟩ := step_globals h
  generalize t.randomSource = source at hne hsource ⊢
  cases hsource with
  | keeps => exact absurd rfl hne
  | reseeds ha => exact .inl ⟨ha, rfl⟩
  | draws hp he d rest hf => exact .inr ⟨hp, he, rfl, d, rest, hf⟩

end Sys2Proof.Machine

/-! # Proofs: whole Evaluates -/

namespace Sys2Proof.Machine

/-! ## Earlier runs -/

/-- R145: started on the same circuit but for its wires, from the same global state and requests, an Evaluate starts
from the same state but for the host's earlier answers. -/
theorem State.startEvaluate_withAnswers {s s' : State} {h : Nat} {c : Circuit} {m : Memory} {input : List Byte}
    {b : Int} {attached : Bool} {draws : SinkDraws} (hc : s.circuits[h]? = some c)
    (hcs : s'.circuits = s.circuits.set h { c with ram := m }) (hr : s'.requests = s.requests)
    (hT : s'.tags = s.tags) (he : s'.randomEnable = s.randomEnable) (hsrc : s'.randomSource = s.randomSource)
    (hfree : s'.freeSerial = s.freeSerial) (hacc : c.Accepts input b attached draws) :
    s'.startEvaluate h input b attached draws =
      (s.startEvaluate h input b attached draws).withAnswers s'.output s'.responses := by
  obtain ⟨hlt, -⟩ := List.getElem?_eq_some_iff.1 hc
  have hc' : s'.circuits[h]? = some { c with ram := m } := by rw [hcs, List.getElem?_set_self hlt]
  have hset : s'.circuits.set h (c.packed input b.toNat) = s.circuits.set h (c.packed input b.toNat) := by
    rw [hcs, List.set_set]
  have hpacked : ({ c with ram := m } : Circuit).packed input b.toNat = c.packed input b.toNat := rfl
  rw [started_eq hc hacc, started_eq (c := { c with ram := m }) hc' hacc, hpacked, hset, hr, hT, he, hsrc, hfree]
  rfl

/-- R143, D17: the unspecified output of an Evaluate turned away depends on the counter of free values and on the size
of the circuit's output. -/
theorem State.answer_abortBatch_accept {s s' : State} {h : Nat} {input : List Byte} {draws : SinkDraws}
    (hfree : s'.freeSerial = s.freeSerial)
    (hheader : (s'.accept h input draws).circuit.header = (s.accept h input draws).circuit.header) (b : Nat)
    (e : TransactionError) :
    ((s'.accept h input draws).abortBatch b e).answer = ((s.accept h input draws).abortBatch b e).answer := by
  have hout : (s'.accept h input draws).unspecifiedOutput b = (s.accept h input draws).unspecifiedOutput b := by
    rw [State.unspecifiedOutput, State.unspecifiedOutput, hheader, State.accept_freeSerial, State.accept_freeSerial,
      hfree]
  rw [State.answer, State.answer, State.abortBatch_output, State.abortBatch_output, hout]
  rfl

/-- Settles O56: what earlier runs left is written over by the start, or is not read; a step in flight carries the
earlier answers along unseen. -/
theorem evaluateForgetsEarlierRuns : Obligations.EvaluateForgetsEarlierRuns := by
  refine ⟨fun s s' h c m input b attached draws ha hp' hr hcs hT he hsrc hfree => ?_,
    fun s t output responses hp hstep => ?_⟩
  · have hc : s.popRequest.circuits[h]? = some c := ha.2
    obtain ⟨hlt, -⟩ := List.getElem?_eq_some_iff.1 hc
    have hc' : s'.popRequest.circuits[h]? = some { c with ram := m } := by
      rw [State.popRequest_circuits, hcs]
      exact List.getElem?_set_self hlt
    have ha' : s'.AsksEvaluate h { c with ram := m } input b attached draws := ⟨⟨hp', hr ▸ ha.1.2⟩, hc'⟩
    refine ⟨_, _, step_eq_start ha, step_eq_start ha', fun hacc => ⟨?_, ?_⟩, fun hn => ?_⟩
    · rw [started_eq hc hacc]
    · exact State.startEvaluate_withAnswers (s := s.popRequest) (s' := s'.popRequest) hc hcs
        (congrArg List.tail hr) hT he hsrc hfree hacc
    · obtain ⟨e, hturned⟩ := State.startEvaluate_of_not_accepts hn
      have hheader : (s'.popRequest.accept h input draws).circuit.header =
          (s.popRequest.accept h input draws).circuit.header := by
        rw [State.circuit_of_getElem? (s := s'.popRequest.accept h input draws) hc',
          State.circuit_of_getElem? (s := s.popRequest.accept h input draws) hc]
      have hanswer := State.answer_abortBatch_accept (s := s.popRequest) (s' := s'.popRequest) hfree hheader b.toNat e
      rw [hturned _ h c.ram hc, hturned _ h m hc']
      exact ⟨rfl, rfl, _, rfl, congrArg (s'.responses ++ [·]) hanswer⟩
  · have hcarry := (s.unseen_withAnswers output responses).step rfl rfl hp hstep
    refine ⟨fun ht => ?_, fun ht => ⟨t.answer, ?_, ?_⟩⟩
    · rwa [State.carry_of_evaluating ht] at hcarry
    · rcases flight_answer hp hstep with ⟨ht', -⟩ | ⟨-, hanswer⟩
      · simp [ht] at ht'
      · exact hanswer
    · rwa [State.carry_of_idle ht] at hcarry

/-! ## Termination -/

section
variable {s t : State} {i : Instr}

/-- R102: an instruction that completes leaves the Evaluate in flight. -/
theorem State.evaluating_afterInstr (hev : s.Evaluating) (i : Instr) : (s.afterInstr i).Evaluating := by
  rw [State.afterInstr_eq]
  exact ⟨hev.1, by simpa using hev.2⟩

/-- R23: an instruction keeps the header of its circuit. -/
@[simp] theorem State.header_afterInstr : (s.afterInstr i).circuit.header = s.circuit.header := by
  simp [State.afterInstr]

/-- R8, R41: how many bytes the output of the Evaluate in flight has. -/
def State.outputSize (s : State) : Nat := s.b * bytesForBits s.circuit.header.outputSize.toNat

theorem State.outputSize_afterInstr : (s.afterInstr i).outputSize = s.outputSize := by
  simp [State.outputSize]

theorem State.output_length_afterLostRecord : (s.afterLostRecord i).output.length = s.outputSize := by
  simp [State.afterLostRecord, State.outputSize]

/-- R107: what an Evaluate that has ended leaves the host: one more response, and an output of its size. -/
def State.EndedWith (s : State) (size : Nat) (t : State) : Prop :=
  t.phase = .idle ∧ t.output.length = size ∧ t.responses = s.responses ++ [t.answer]

/-- R8, R101: a step in flight runs an instruction, or ends the Evaluate with an output of its size. -/
theorem flight_ends_or_runs (hev : s.Evaluating) (h : step s = .next t) :
    s.EndedWith s.outputSize t ∨ ∃ i, s.moreInstructions = true ∧ t = s.afterInstr i := by
  obtain ⟨-, hcase⟩ := flight_cases hev.1 h
  cases hcase with
  | aborts => exact .inl ⟨rfl, State.unspecifiedOutput_length s s.b, rfl⟩
  | ends => exact .inl ⟨rfl, unpackOutputs_length _ _ _, rfl⟩
  | completes i rest hm => exact .inr ⟨i, hm, rfl⟩
  | losesRecord i =>
    refine .inl ⟨rfl, State.output_length_afterLostRecord, ?_⟩
    rw [State.afterLostRecord_eq]
    rfl

end

/-- R107: an Evaluate in flight ends within the instructions it has left and one step more. -/
theorem flight_terminates {k : Nat} {s : State} (hev : s.Evaluating)
    (hk : s.circuit.header.numOpcodes.toNat ≤ s.n + k) :
    ∃ j t, j ≤ k + 1 ∧ Sys2Proof.core.run j s = .next t ∧ s.EndedWith s.outputSize t := by
  induction k generalizing s with
  | zero =>
    obtain ⟨t, h⟩ := step_next_of_evaluating hev
    rcases flight_ends_or_runs hev h with hend | ⟨i, hm, -⟩
    · exact ⟨1, t, le_rfl, core_run_succ 0 h, hend⟩
    · have hn : s.n < s.circuit.header.numOpcodes.toNat := of_decide_eq_true hm
      omega
  | succ k ih =>
    obtain ⟨t, h⟩ := step_next_of_evaluating hev
    rcases flight_ends_or_runs hev h with hend | ⟨i, -, rfl⟩
    · exact ⟨1, t, by omega, core_run_succ 0 h, hend⟩
    · obtain ⟨j, u, hj, hrun, hend⟩ := ih (State.evaluating_afterInstr hev i) (by
        rw [State.header_afterInstr, State.afterInstr_n]
        omega)
      obtain ⟨hidle, hout, hanswer⟩ := hend
      rw [State.outputSize_afterInstr] at hout
      rw [State.afterInstr_responses] at hanswer
      exact ⟨j + 1, u, by omega, (core_run_succ j h).trans hrun, hidle, hout, hanswer⟩

/-- R94: an accepted Evaluate starts in flight on its handle's circuit. -/
theorem State.evaluating_startEvaluate {s : State} {h : Nat} {c : Circuit} {input : List Byte} {b : Int}
    {attached : Bool} {draws : SinkDraws} (hc : s.circuits[h]? = some c) (hacc : c.Accepts input b attached draws) :
    (s.startEvaluate h input b attached draws).Evaluating := by
  obtain ⟨hlt, -⟩ := List.getElem?_eq_some_iff.1 hc
  rw [started_eq hc hacc]
  exact ⟨rfl, by simpa using hlt⟩

/-- Settles O46: an Evaluate that is accepted starts in flight, and one that is turned away has ended. -/
theorem everyEvaluateTerminates : Obligations.EveryEvaluateTerminates := by
  intro s h c input b attached draws ha
  have hc : s.popRequest.circuits[h]? = some c := ha.2
  have hstep := step_eq_start ha
  by_cases hacc : c.Accepts input b attached draws
  · have hcirc := State.circuit_startEvaluate_of_accepts hc hacc
    obtain ⟨j, t, hj, hrun, hidle, hout, hanswer⟩ :=
      flight_terminates (k := c.header.numOpcodes.toNat) (State.evaluating_startEvaluate hc hacc) (by
        rw [hcirc]
        exact Nat.le_add_left _ _)
    rw [State.outputSize, hcirc] at hout
    rw [started_eq hc hacc] at hout hanswer
    exact ⟨j + 1, t, by omega, (core_run_succ j hstep).trans hrun, hidle, hout, hanswer⟩
  · obtain ⟨e, hturned⟩ := State.startEvaluate_of_not_accepts hacc
    have hcirc : (s.popRequest.accept h input draws).circuit = c := State.circuit_of_getElem? hc
    rw [hturned _ h c.ram hc] at hstep
    refine ⟨1, _, by omega, core_run_succ 0 hstep, rfl, ?_, rfl⟩
    rw [State.abortBatch_output, State.unspecifiedOutput_length, hcirc, bytesForBits]

/-! ## The codec there and back -/

/-- R119: the slot's lane of an input wire holds the slot's input bit when the Evaluate starts. -/
theorem Circuit.getLsbD_ioBit_read_packed {c : Circuit} (hnd : c.inputAddr.Nodup) {i j b : Nat} {a : WireAddr}
    (ha : c.inputAddr[i]? = some a) (input : List Byte) (hb : b ≤ 64) (hj : j < b) :
    ((c.packed input b).ram.read a.toNat).getLsbD (ioBit j) =
      bufferBit input (j * bytesForBits c.header.inputSize.toNat) i := by
  have hactive : ioBit j < 64 ∧ ioBit (ioBit j) < b := ⟨ioBit_lt (hj.trans_le hb), by rwa [ioBit_ioBit]⟩
  rw [Circuit.getLsbD_read_packed hnd ha input hb, if_pos hactive, ioBit_ioBit]

/-- Settles O57: with no instruction the second step is the completion, and it unpacks the wires that the start
packed. -/
theorem codecRoundTrip : Obligations.CodecRoundTrip := by
  intro s h c input b attached draws ha hw hnum hsize hout haddr hacc hclose
  have hc : s.popRequest.circuits[h]? = some c := ha.2
  have ⟨⟨_, hmax⟩, hlen, ⟨_, _, hnd⟩, _⟩ := hacc
  have hcirc := State.circuit_startEvaluate_of_accepts hc hacc
  have hm : (s.popRequest.startEvaluate h input b attached draws).moreInstructions = false := by
    rw [State.moreInstructions, hcirc]
    simp [Circuit.packed, hnum]
  have hend : (s.popRequest.startEvaluate h input b attached draws).finishEvaluate =
      (s.popRequest.startEvaluate h input b attached draws).complete := by
    refine State.finishEvaluate_eq_complete ?_ ?_
    · rw [hcirc, started_eq hc hacc]
      simp [Circuit.packed, hsize]
    · rw [started_eq hc hacc]
      exact hclose
  have hrun : Sys2Proof.core.run 2 s = .next (s.popRequest.startEvaluate h input b attached draws).complete := by
    rw [core_run_succ 1 (step_eq_start ha),
      core_run_succ 0 (step_eq_finish (State.evaluating_startEvaluate hc hacc) hm),
      hend]
    rfl
  have hb : (s.popRequest.startEvaluate h input b attached draws).b = b.toNat := by rw [started_eq hc hacc]
  refine ⟨_, hrun, rfl, rfl, ?_, fun i j hi hj => ?_⟩
  · rw [State.complete_output, unpackOutputs_length, hb, hcirc, hlen, Circuit.packed, hout]
  · have hi' : i < c.inputAddr.length := hw.1 ▸ hi
    have hin : c.inputAddr[i]? = some c.inputAddr[i] := List.getElem?_eq_getElem hi'
    have hget : (c.packed input b.toNat).outputAddr[i]? = some c.inputAddr[i] :=
      (congrArg (·[i]?) haddr).trans hin
    have hiout : i < c.header.outputSize.toNat := by rwa [hout]
    rw [State.complete_output, hb, hcirc]
    calc bufferBit (unpackOutputs (c.packed input b.toNat) b.toNat _) (j * bytesForBits c.header.outputSize.toNat) i
        = outputBit (c.packed input b.toNat) i j :=
          bufferBit_unpackOutputs (c.packed input b.toNat) _ hj hiout
      _ = ((c.packed input b.toNat).ram.read c.inputAddr[i].toNat).getLsbD (ioBit j) := outputBit_of_getElem? hget j
      _ = bufferBit input (j * bytesForBits c.header.inputSize.toNat) i :=
          Circuit.getLsbD_ioBit_read_packed hnd hin input (Int.toNat_le.2 hmax) hj

end Sys2Proof.Machine

/-! # Proofs: the independence of batches -/

namespace Sys2Proof.Machine

/-! ## The instructions of a stream -/

/-- R97, R102: what a decode leaves is what follows the instruction's width in bytes. -/
theorem decode_ok_rest {T : TagMap} {bytes rest : List Byte} {i : Instr} (h : decode T bytes = .ok i rest) :
    rest = bytes.drop i.width := by
  cases bytes with
  | nil => cases h
  | cons t fields =>
    cases hop : T.opOf t with
    | none => simp [decode, hop] at h
    | some op =>
      simp only [decode, hop] at h
      obtain ⟨rfl, rfl⟩ := eq_of_decodeFields_eq_ok h
      cases i <;> rfl

/-- The instructions that the Evaluate in flight may still run (R96). -/
def State.instructionsLeft (s : State) : List Instr :=
  decodeStream s.tags (s.circuit.header.numOpcodes.toNat - s.n) s.fetchWindow

/-- R96 to R102: the instructions left are the one at the cursor and those left after it. -/
theorem State.instructionsLeft_eq_cons {s : State} {i : Instr} {rest : List Byte} (hm : s.moreInstructions = true)
    (hf : s.fetch = .ok i rest) (hw : i.wf s.memorySize) :
    s.instructionsLeft = i :: (s.afterInstr i).instructionsLeft := by
  have hn : s.n < s.circuit.header.numOpcodes.toNat := of_decide_eq_true hm
  have hleft : s.circuit.header.numOpcodes.toNat - s.n = s.circuit.header.numOpcodes.toNat - (s.n + 1) + 1 := by omega
  have hrest := decode_ok_rest hf
  have hwindow : (s.afterInstr i).fetchWindow = rest := by
    rw [State.fetchWindow, State.circuit_afterInstr hw, hrest, State.fetchWindow, List.drop_drop, State.afterInstr_pc]
  have hdecode : decode s.tags s.fetchWindow = .ok i rest := hf
  rw [State.instructionsLeft, State.instructionsLeft, hleft, decodeStream, hdecode, hwindow, State.afterInstr_tags,
    State.afterInstr_n, State.header_afterInstr]

/-! ## Two Evaluates of one circuit -/

/-- Two Evaluates in flight on a circuit c, at the same place of its stream, whose wires agree on the lanes of slot j of
the one and slot j' of the other; neither will draw. -/
structure SameSlot (c : Circuit) (j j' : Nat) (s s' : State) : Prop where
  left : s.Evaluating
  right : s'.Evaluating
  leftCircuit : s.circuit = { c with ram := s.circuit.ram }
  rightCircuit : s'.circuit = { c with ram := s'.circuit.ram }
  leftSlot : j < s.b
  rightSlot : j' < s'.b
  leftMask : s.notMask.getLsbD (ioBit j) = true
  rightMask : s'.notMask.getLsbD (ioBit j') = true
  leftAlone : s.requests = []
  rightAlone : s'.requests = []
  tags : s'.tags = s.tags
  pc : s'.pc = s.pc
  n : s'.n = s.n
  traceAttached : s'.traceAttached = s.traceAttached
  sink : s'.sink = s.sink
  lanes : ∀ a, (s'.readWire a).getLsbD (ioBit j') = (s.readWire a).getLsbD (ioBit j)
  noDraw : s.randomEnable = false ∧ s'.randomEnable = false ∨ ∀ i ∈ s.instructionsLeft, i.op ≠ .random

/-- Two Evaluates that have ended alike, with the same output bits in slot j of the one and slot j' of the other if they
completed. -/
structure SameEnd (c : Circuit) (j j' : Nat) (t t' : State) : Prop where
  left : t.phase = .idle
  right : t'.phase = .idle
  leftAlone : t.requests = []
  rightAlone : t'.requests = []
  status : t'.status = t.status
  output : t.status = .ok → ∀ i, i < c.header.outputSize.toNat →
    bufferBit t.output (j * bytesForBits c.header.outputSize.toNat) i =
      bufferBit t'.output (j' * bytesForBits c.header.outputSize.toNat) i

/-- Two states in flight or ended in step. -/
def InStep (c : Circuit) (j j' : Nat) (t t' : State) : Prop := SameSlot c j j' t t' ∨ SameEnd c j j' t t'

/-- Two Evaluates aborted with one error have ended alike. -/
theorem SameEnd.of_fault {c : Circuit} {j j' : Nat} {t t' : State} {e : TransactionError} (hp : t.phase = .idle)
    (hp' : t'.phase = .idle) (hr : t.requests = []) (hr' : t'.requests = []) (hst : t.status = .fault e)
    (hst' : t'.status = .fault e) : SameEnd c j j' t t' where
  left := hp
  right := hp'
  leftAlone := hr
  rightAlone := hr'
  status := hst'.trans hst.symm
  output hok := by rw [hst] at hok; cases hok

namespace SameSlot

variable {c : Circuit} {j j' : Nat} {s s' : State}

theorem header (h : SameSlot c j j' s s') : s'.circuit.header = s.circuit.header := by
  rw [h.leftCircuit, h.rightCircuit]

theorem fetch (h : SameSlot c j j' s s') : s'.fetch = s.fetch := by
  rw [State.fetch, State.fetch, State.fetchWindow, State.fetchWindow, h.leftCircuit, h.rightCircuit, h.tags, h.pc]

theorem moreInstructions (h : SameSlot c j j' s s') : s'.moreInstructions = s.moreInstructions := by
  rw [State.moreInstructions, State.moreInstructions, h.header, h.n]

theorem memorySize (h : SameSlot c j j' s s') : s'.memorySize = s.memorySize := by
  rw [State.memorySize, State.memorySize, h.header]

theorem appendFails (h : SameSlot c j j' s s') : s'.appendFails = s.appendFails := by
  rw [State.appendFails, State.appendFails, h.traceAttached, h.sink, h.n]

/-- Both Evaluates aborted with one error have ended alike. -/
theorem abort (h : SameSlot c j j' s s') (e : TransactionError) : SameEnd c j j' (s.abort e) (s'.abort e) :=
  .of_fault rfl rfl h.leftAlone h.rightAlone rfl rfl

/-- Both Evaluates after an instruction whose record is lost have ended alike. -/
theorem afterLostRecord (h : SameSlot c j j' s s') (i : Instr) :
    SameEnd c j j' (s.afterLostRecord i) (s'.afterLostRecord i) := by
  refine .of_fault rfl rfl ?_ ?_ rfl (by rw [State.afterLostRecord_status, h.n])
  · rw [State.afterLostRecord_eq]
    exact h.leftAlone
  · rw [State.afterLostRecord_eq]
    exact h.rightAlone

/-- R114: the result words agree on the lanes of the two slots, since the instruction does not draw. -/
theorem result (h : SameSlot c j j' s s') {i : Instr} (hi : i ∈ s.instructionsLeft) :
    (i.result s').getLsbD (ioBit j') = (i.result s).getLsbD (ioBit j) := by
  refine getLsbD_result_congr i h.lanes (h.rightMask.trans h.leftMask.symm) fun hop => ?_
  rcases h.noDraw with ⟨he, he'⟩ | hne
  · rw [State.randomResult_of_disabled he, State.randomResult_of_disabled he']
    exact BitVec.getLsbD_zero.trans BitVec.getLsbD_zero.symm
  · exact absurd hop (hne i hi)

/-- Both Evaluates go on in step after an instruction that completes. -/
theorem afterInstr (h : SameSlot c j j' s s') {i : Instr} {rest : List Byte} (hm : s.moreInstructions = true)
    (hf : s.fetch = .ok i rest) (hw : i.wf s.memorySize) :
    SameSlot c j j' (s.afterInstr i) (s'.afterInstr i) := by
  have hw' : i.wf s'.memorySize := h.memorySize ▸ hw
  have hleft := State.instructionsLeft_eq_cons hm hf hw
  have hresult := h.result (i := i) (by rw [hleft]; exact List.mem_cons_self)
  exact
    { left := State.evaluating_afterInstr h.left i
      right := State.evaluating_afterInstr h.right i
      leftCircuit := by rw [State.circuit_afterInstr hw, h.leftCircuit]
      rightCircuit := by rw [State.circuit_afterInstr hw', h.rightCircuit]
      leftSlot := by simpa using h.leftSlot
      rightSlot := by simpa using h.rightSlot
      leftMask := by simpa using h.leftMask
      rightMask := by simpa using h.rightMask
      leftAlone := by simpa using h.leftAlone
      rightAlone := by simpa using h.rightAlone
      tags := by simpa using h.tags
      pc := by simpa using h.pc
      n := by simpa using h.n
      traceAttached := by simpa using h.traceAttached
      sink := by simpa using h.sink
      lanes := fun a => by
        rw [State.readWire_afterInstr hw, State.readWire_afterInstr hw']
        split
        · exact hresult
        · exact h.lanes a
      noDraw := h.noDraw.imp (by simp) fun hne k hk => hne k (hleft ▸ List.mem_cons_of_mem i hk) }

/-- Two completions have the same output bits in the two slots (R121). -/
theorem complete (h : SameSlot c j j' s s') : SameEnd c j j' s.complete s'.complete where
  left := rfl
  right := rfl
  leftAlone := h.leftAlone
  rightAlone := h.rightAlone
  status := rfl
  output _ i hi := by
    have hheader : s.circuit.header = c.header := by rw [h.leftCircuit]
    have hheader' : s'.circuit.header = c.header := by rw [h.rightCircuit]
    have haddr : s'.circuit.outputAddr = s.circuit.outputAddr := by rw [h.leftCircuit, h.rightCircuit]
    have hbit := bufferBit_unpackOutputs s.circuit s.freeSerial h.leftSlot (hheader ▸ hi)
    have hbit' := bufferBit_unpackOutputs s'.circuit s'.freeSerial h.rightSlot (hheader' ▸ hi)
    rw [hheader] at hbit
    rw [hheader'] at hbit'
    rw [State.complete_output, State.complete_output, hbit, hbit', outputBit, outputBit, haddr]
    exact (h.lanes _).symm

/-- The end of the run is alike. -/
theorem finishEvaluate (h : SameSlot c j j' s s') : SameEnd c j j' s.finishEvaluate s'.finishEvaluate := by
  rw [State.finishEvaluate, State.finishEvaluate, h.pc, h.header, h.traceAttached, h.sink]
  split
  · exact h.abort _
  · split
    · exact h.abort _
    · exact h.complete

/-- R126: two Evaluates in step stay in step through an instruction. -/
theorem exec {t t' : State} (h : SameSlot c j j' s s') {i : Instr} {rest : List Byte}
    (hm : s.moreInstructions = true) (hf : s.fetch = .ok i rest) (hs : exec i s = .next t)
    (hs' : Machine.exec i s' = .next t') : InStep c j j' t t' := by
  cases hout : firstOutOfRange s.memorySize i.operands with
  | some bad =>
    have hout' : firstOutOfRange s'.memorySize i.operands = some (bad.1, bad.2) := h.memorySize ▸ hout
    rw [exec_of_firstOutOfRange hout] at hs
    rw [exec_of_firstOutOfRange hout', h.n, h.pc] at hs'
    cases hs
    cases hs'
    exact .inr (h.abort _)
  | none =>
    have hw : i.wf s.memorySize := firstOutOfRange_eq_none.1 hout
    have hw' : i.wf s'.memorySize := h.memorySize ▸ hw
    cases ha : s.appendFails with
    | true =>
      rw [exec_eq_afterLostRecord hw ha] at hs
      rw [exec_eq_afterLostRecord hw' (h.appendFails.trans ha)] at hs'
      cases hs
      cases hs'
      exact .inr (h.afterLostRecord i)
    | false =>
      rw [exec_eq_afterInstr ⟨hw, ha⟩] at hs
      rw [exec_eq_afterInstr ⟨hw', h.appendFails.trans ha⟩] at hs'
      cases hs
      cases hs'
      exact .inl (h.afterInstr hm hf hw)

/-- R126: two Evaluates in step stay in step. -/
theorem step {t t' : State} (h : SameSlot c j j' s s') (hs : step s = .next t) (hs' : Machine.step s' = .next t') :
    InStep c j j' t t' := by
  cases hm : s.moreInstructions with
  | false =>
    rw [step_eq_finish h.left hm] at hs
    rw [step_eq_finish h.right (h.moreInstructions.trans hm)] at hs'
    cases hs
    cases hs'
    exact .inr h.finishEvaluate
  | true =>
    rw [step_eq_stepInstruction h.left hm, State.stepInstruction] at hs
    rw [step_eq_stepInstruction h.right (h.moreInstructions.trans hm), State.stepInstruction, h.fetch] at hs'
    cases hf : s.fetch with
    | ok i rest =>
      rw [hf] at hs hs'
      exact h.exec hm hf hs hs'
    | truncated =>
      rw [hf] at hs hs'
      simp only [State.abortTruncated, h.n, h.pc] at hs hs'
      cases hs
      cases hs'
      exact .inr (h.abort _)
    | unknownTag tag =>
      rw [hf] at hs hs'
      simp only [State.abortUnknown, h.n, h.pc] at hs hs'
      cases hs
      cases hs'
      exact .inr (h.abort _)

end SameSlot

/-! ## Runs in step -/

/-- An idle block without a request does not change (log entry 8). -/
theorem step_eq_self {s : State} (hp : s.phase = .idle) (hr : s.requests = []) : step s = .next s := by
  rw [step_eq_serve hp, State.serve, hr]

/-- R126: two machines in step stay in step: in flight together, or ended alike and at rest. -/
theorem InStep.step {c : Circuit} {j j' : Nat} {s s' t t' : State} (h : InStep c j j' s s')
    (hs : step s = .next t) (hs' : Machine.step s' = .next t') : InStep c j j' t t' := by
  rcases h with h | h
  · exact h.step hs hs'
  · rw [step_eq_self h.left h.leftAlone] at hs
    rw [step_eq_self h.right h.rightAlone] at hs'
    cases hs
    cases hs'
    exact .inr h

/-- A run of k + 1 steps that answers a next state begins with a step that does, for any machine. -/
theorem exists_step_of_run_succ {M : Host.Core} {k : Nat} {s t : M.State} (h : M.run (k + 1) s = .next t) :
    ∃ u, M.step s = .next u ∧ M.run k u = .next t := by
  rw [Host.Core.run] at h
  split at h
  · rename_i u hu
    exact ⟨u, hu, h⟩
  · cases h
  · cases h

/-- R126: two machines in step stay in step for a whole run. -/
theorem InStep.run {c : Circuit} {j j' k : Nat} {s s' t t' : State} (h : InStep c j j' s s')
    (hs : Sys2Proof.core.run k s = .next t) (hs' : Sys2Proof.core.run k s' = .next t') : InStep c j j' t t' := by
  induction k generalizing s s' with
  | zero =>
    cases hs
    cases hs'
    exact h
  | succ k ih =>
    obtain ⟨u, hu, hrun⟩ := exists_step_of_run_succ (M := Sys2Proof.core) hs
    obtain ⟨u', hu', hrun'⟩ := exists_step_of_run_succ (M := Sys2Proof.core) hs'
    exact ih (h.step hu hu') hrun hrun'

/-! ## The start -/

/-- R119: the lanes of two slots with the same input bits are alike in every wire when the Evaluates start. -/
theorem Circuit.getLsbD_read_packed_congr {c : Circuit} (hw : c.wf) (hnd : c.inputAddr.Nodup)
    {input input' : List Byte} {b b' j j' : Nat} (hb : b ≤ 64) (hb' : b' ≤ 64) (hj : j < b) (hj' : j' < b')
    (hbits : ∀ i, i < c.header.inputSize.toNat →
      bufferBit input (j * bytesForBits c.header.inputSize.toNat) i =
        bufferBit input' (j' * bytesForBits c.header.inputSize.toNat) i) (a : Nat) :
    ((c.packed input' b').ram.read a).getLsbD (ioBit j') = ((c.packed input b).ram.read a).getLsbD (ioBit j) := by
  by_cases hx : ∃ x ∈ c.inputAddr, x.toNat = a
  · obtain ⟨x, hx, rfl⟩ := hx
    obtain ⟨i, hi⟩ := List.mem_iff_getElem?.1 hx
    obtain ⟨hlt, -⟩ := List.getElem?_eq_some_iff.1 hi
    rw [Circuit.getLsbD_ioBit_read_packed hnd hi input hb hj, Circuit.getLsbD_ioBit_read_packed hnd hi input' hb' hj',
      hbits i (hw.1 ▸ hlt)]
  · push Not at hx
    rw [Circuit.read_packed_of_not_input input b hx, Circuit.read_packed_of_not_input input' b' hx]
    exact BitVec.getLsbD_zero.trans BitVec.getLsbD_zero.symm

/-- The mask of a batch has the lane of each of its slots. -/
theorem getLsbD_notMaskOf_ioBit {b j : Nat} (hb : b ≤ 64) (hj : j < b) : (notMaskOf b).getLsbD (ioBit j) = true := by
  simp [getLsbD_notMaskOf, ioBit_ioBit, hj, ioBit_lt (hj.trans_le hb)]

/-- R126: two accepted Evaluates of one circuit start in step, whatever the wires were before. -/
theorem SameSlot.of_start {s s' : State} {h h' : Nat} {c : Circuit} {m : Memory} {input input' : List Byte} {b b' : Int}
    {attached : Bool} {draws : SinkDraws} {j j' : Nat} (hc : s.circuits[h]? = some c)
    (hacc : c.Accepts input b attached draws) (hr : s.requests = []) (hc' : s'.circuits[h']? = some { c with ram := m })
    (hacc' : ({ c with ram := m } : Circuit).Accepts input' b' attached draws) (hr' : s'.requests = []) (hw : c.wf)
    (hT : s'.tags = s.tags) (hdraw : s.randomEnable = false ∧ s'.randomEnable = false ∨ c.noRandom s.tags)
    (hj : j < b.toNat) (hj' : j' < b'.toNat)
    (hbits : ∀ i, i < c.header.inputSize.toNat →
      bufferBit input (j * bytesForBits c.header.inputSize.toNat) i =
        bufferBit input' (j' * bytesForBits c.header.inputSize.toNat) i) :
    SameSlot c j j' (s.startEvaluate h input b attached draws) (s'.startEvaluate h' input' b' attached draws) := by
  have ⟨⟨_, hmax⟩, _, ⟨_, _, hnd⟩, _⟩ := hacc
  have ⟨⟨_, hmax'⟩, _⟩ := hacc'
  have hb : b.toNat ≤ 64 := Int.toNat_le.2 hmax
  have hb' : b'.toNat ≤ 64 := Int.toNat_le.2 hmax'
  have hcirc := State.circuit_startEvaluate_of_accepts hc hacc
  have hcirc' := State.circuit_startEvaluate_of_accepts (c := { c with ram := m }) hc' hacc'
  have hstart := started_eq hc hacc
  have hstart' := started_eq (c := { c with ram := m }) hc' hacc'
  exact
    { left := State.evaluating_startEvaluate hc hacc
      right := State.evaluating_startEvaluate (c := { c with ram := m }) hc' hacc'
      leftCircuit := by rw [hcirc]; rfl
      rightCircuit := by rw [hcirc']; rfl
      leftSlot := by rw [hstart]; exact hj
      rightSlot := by rw [hstart']; exact hj'
      leftMask := by rw [hstart]; exact getLsbD_notMaskOf_ioBit hb hj
      rightMask := by rw [hstart']; exact getLsbD_notMaskOf_ioBit hb' hj'
      leftAlone := by rw [hstart]; exact hr
      rightAlone := by rw [hstart']; exact hr'
      tags := by rw [hstart, hstart']; exact hT
      pc := by rw [hstart, hstart']
      n := by rw [hstart, hstart']
      traceAttached := by rw [hstart, hstart']
      sink := by rw [hstart, hstart']
      lanes := fun a => by
        rw [State.readWire, State.readWire, hcirc, hcirc']
        exact Circuit.getLsbD_read_packed_congr hw hnd hb hb' hj hj' hbits a
      noDraw := by
        refine hdraw.imp (fun he => ?_) fun hne i hi => hne i ?_
        · rw [hstart, hstart']
          exact he
        · rw [State.instructionsLeft, State.fetchWindow, hcirc, hstart] at hi
          exact hi }

/-- Settles O58: the two Evaluates start in step and stay in step, so that they end together and alike. -/
theorem batchesAreIndependent : Obligations.BatchesAreIndependent := by
  intro s s' h h' c m input input' b b' attached draws j j' k t t' ha hacc hone ha' hacc' hone' hw hT hdraw hj hj' hbits
    hk hrun hrun' ht
  have hr : s.popRequest.requests = [] := List.eq_nil_of_length_eq_zero (by simp [hone])
  have hr' : s'.popRequest.requests = [] := List.eq_nil_of_length_eq_zero (by simp [hone'])
  have hsame : SameSlot c j j' (s.popRequest.startEvaluate h input b attached draws)
      (s'.popRequest.startEvaluate h' input' b' attached draws) :=
    .of_start (s := s.popRequest) (s' := s'.popRequest) ha.2 hacc hr ha'.2 hacc' hr' hw hT.symm hdraw hj hj' hbits
  obtain ⟨k, rfl⟩ := Nat.exists_eq_add_one.2 hk
  rw [core_run_succ k (step_eq_start ha)] at hrun
  rw [core_run_succ k (step_eq_start ha')] at hrun'
  rcases InStep.run (.inl hsame) hrun hrun' with hflight | hend
  · have hflying := hflight.left.1
    simp [ht] at hflying
  · exact ⟨hend.right, hend.status, hend.output⟩

end Sys2Proof.Machine
